-- ==== Sys2Proof/Word.lean ====
section
/-! DEFINITION. The words of lillib CORE whose width the spec fixes: the byte and the byte arrays of the AES
unit (spec/00_scope.md R14, spec/10_state.md R40, R41, R44). The words whose width is a parameter are in
Config.lean. -/

namespace Sys2Proof

/-- One byte: eight bits, bit 7 the most significant (R14). -/
abbrev Byte := BitVec 8

/-- A byte array of `n` bytes, index 0 at the lowest address (R14). -/
abbrev Bytes (n : Nat) := Vector Byte n

/-- An AES block, a 128-bit key or a counter: sixteen bytes (R11, R40, R44). -/
abbrev Block := Bytes 16

/-- A 256-bit key: thirty-two bytes (R11, R41). -/
abbrev Key256 := Bytes 32

/-- The expanded 128-bit schedule: 176 bytes (R260). -/
abbrev Schedule := Bytes 176

end Sys2Proof
end

