-- ==== Sys2Proof/Config.lean ====
section
/-! DEFINITION. What an implementation fixes (spec/00_scope.md R12), as the fields of one configuration
record, and what the spec leaves open. The record takes the spec's defaults (log entry 14); a parameter the
spec leaves OPEN, or whose value no claim may depend on, is made from an opaque constant with no body. -/

namespace Sys2Proof

/-- The two S-box strategies (R12 `SBOX_STRATEGY`, R193). -/
inductive Strategy where
  | table
  | computed
deriving DecidableEq, Repr

/-- The nine recognized status names, in the order of R108's table. -/
inductive StatusName where
  | start
  | mtSlaAck
  | mtDataAck
  | mrDataAck
  | mrSlaAck
  | mrDataNack
  | mtDataNack
  | mtSlaNack
  | mrSlaNack
deriving DecidableEq, Repr

/-- The six named bits of `TW_CTRL` (R33). -/
inductive CtrlName where
  | int
  | ea
  | sta
  | sto
  | en
  | ie
deriving DecidableEq, Repr

/-- The build-time feature flags that decide which opcodes exist (R12 `KEYSIZES`, `FASTPATH`; R110, R329). -/
structure Build where
  /-- 128 is in `KEYSIZES`. -/
  keys128 : Bool
  /-- 256 is in `KEYSIZES`. -/
  keys256 : Bool
  /-- `FASTPATH`: `AES128.EXPAND` and `AES128.CTR` exist. -/
  fastPath : Bool
deriving DecidableEq, Repr

/-- The configuration record: every parameter of R12's table is a field. -/
structure Parameters where
  /-- `LEN_W`: width of `tw_remaining` and of the `length` operand. -/
  lenW : Nat
  /-- `PTR_W`: width of `tw_cursor` and of every buffer address. -/
  ptrW : Nat
  /-- `CTR_N_W`: width of the block count of `AES128.CTR`. -/
  ctrNW : Nat
  /-- `BITRATE_DIV`: what `TWI.INIT` writes to `TW_BITRATE`. -/
  bitrateDiv : Byte
  /-- `OWN_ADDR`: what `TWI.INIT` writes to `TW_OWNADDR`. -/
  ownAddr : Byte
  /-- `RESULT_SUCCESS`. -/
  resultSuccess : Byte
  /-- `RESULT_FAILURE`. -/
  resultFailure : Byte
  /-- `RESULT_PENDING`. -/
  resultPending : Byte
  /-- `STATUS_CODE`: from status name to code. -/
  statusCode : StatusName → Byte
  /-- `STATUS_MASK`: applied to the status register before dispatch. -/
  statusMask : Byte
  /-- `CTRL_BIT`: from control-bit name to bit position. -/
  ctrlBit : CtrlName → Nat
  /-- `SBOX_STRATEGY`. -/
  sboxStrategy : Strategy
  /-- `KEYSIZES` and `FASTPATH`. -/
  build : Build
  /-- `GF_GENERATOR`: generator of the log and antilog tables. -/
  gfGenerator : Byte

namespace Config

/-! ### Open values -/

/-- `BITRATE_DIV`: OPEN (R12, R34, D16). Free: nothing constrains it (log entry 1). -/
opaque bitrateDiv : Byte

/-- `OWN_ADDR`: OPEN (R12, R35, D16). Free: nothing constrains it (log entry 1). -/
opaque ownAddr : Byte

/-- A free byte from which `RESULT_FAILURE` is made (log entry 2). -/
opaque failureSeed : Byte

/-- A free byte from which `RESULT_PENDING` is made (log entry 2). -/
opaque pendingSeed : Byte

/-- A byte for `RESULT_FAILURE`: any nonzero one, and no claim may depend on which (R25, D7; log entry 2). -/
def anyFailure : Byte := if failureSeed = 0 then 0x01 else failureSeed

/-- A byte for `RESULT_PENDING`: any that is neither of the other two (R25, D7; log entry 2). -/
def anyPending : Byte :=
  if pendingSeed = 0 ∨ pendingSeed = anyFailure then (if anyFailure = 0xFF then 0xFE else 0xFF) else pendingSeed

/-! ### The record -/

/-- `STATUS_CODE`'s default (R108). -/
def defaultStatusCode : StatusName → Byte
  | .start => 0x08
  | .mtSlaAck => 0x18
  | .mtDataAck => 0x28
  | .mrDataAck => 0x50
  | .mrSlaAck => 0x40
  | .mrDataNack => 0x58
  | .mtDataNack => 0x30
  | .mtSlaNack => 0x20
  | .mrSlaNack => 0x48

/-- `CTRL_BIT`'s default (R33). -/
def defaultCtrlBit : CtrlName → Nat
  | .int => 7
  | .ea => 6
  | .sta => 5
  | .sto => 4
  | .en => 2
  | .ie => 0

/-- The configuration of this model: the defaults of R12 (log entry 14), and free values where R12 is OPEN or R25
forbids a claim about the value. -/
@[reducible] def parameters : Parameters where
  lenW := 8
  ptrW := 16
  ctrNW := 16
  bitrateDiv := bitrateDiv
  ownAddr := ownAddr
  resultSuccess := 0x00
  resultFailure := anyFailure
  resultPending := anyPending
  statusCode := defaultStatusCode
  statusMask := 0xF8
  ctrlBit := defaultCtrlBit
  sboxStrategy := .table
  build := { keys128 := true, keys256 := true, fastPath := true }
  gfGenerator := 0x03

/-- `CTRL_BIT` of `INT` (R33). -/
def ctrlInt : Nat := parameters.ctrlBit .int
/-- `CTRL_BIT` of `EA` (R33). -/
def ctrlEa : Nat := parameters.ctrlBit .ea
/-- `CTRL_BIT` of `STA` (R33). -/
def ctrlSta : Nat := parameters.ctrlBit .sta
/-- `CTRL_BIT` of `STO` (R33). -/
def ctrlSto : Nat := parameters.ctrlBit .sto
/-- `CTRL_BIT` of `EN` (R33). -/
def ctrlEn : Nat := parameters.ctrlBit .en
/-- `CTRL_BIT` of `IE` (R33). -/
def ctrlIe : Nat := parameters.ctrlBit .ie

end Config

/-! ### The words whose width is a parameter -/

/-- An address of the caller buffer space `BUF`: `PTR_W` bits (R12, R70). -/
abbrev Addr := BitVec Config.parameters.ptrW

/-- A TWI byte count: `LEN_W` bits (R12, R23). -/
abbrev Len := BitVec Config.parameters.lenW

/-- A counter-mode block count: `CTR_N_W` bits (R12, R44). -/
abbrev Count := BitVec Config.parameters.ctrNW

end Sys2Proof
end

