-- ==== Sys2Proof/Syntax.lean ====
section
/-! DEFINITION. The syntax of lillib CORE: one constructor per row of spec/opcode_table.json, the 31
commands of format `CMD` (spec/30_encoding.md R109) and the 10 events of format `EVT` (R108). -/

namespace Sys2Proof

/-- The two request formats (R100). -/
inductive Format where
  /-- A command, at the command port. -/
  | cmd
  /-- An event, the delivery of the peripheral's interrupt with its status byte. -/
  | evt
deriving DecidableEq, Repr

/-- The requests of the block. Operands are in the order of R103, R104 and R109; `low` of an event
holds the bits of the status byte that `STATUS_MASK` removes, the others 0 (R107). -/
inductive Instr where
  /-- `TWI.INIT` (R130). -/
  | twiInit
  /-- `TWI.WRITE addr7, len, ptr` (R132). -/
  | twiWrite (addr7 : BitVec 7) (len : Len) (ptr : Addr)
  /-- `TWI.WRITE1 addr7, byte` (R133). -/
  | twiWrite1 (addr7 : BitVec 7) (byte : Byte)
  /-- `TWI.READ addr7, len, ptr` (R134). -/
  | twiRead (addr7 : BitVec 7) (len : Len) (ptr : Addr)
  /-- `AES128.ENC kptr, bptr` (R240). -/
  | aes128Enc (kptr bptr : Addr)
  /-- `AES128.DEC kptr, bptr` (R241). -/
  | aes128Dec (kptr bptr : Addr)
  /-- `AES128.DERIVE kptr, dptr` (R242). -/
  | aes128Derive (kptr dptr : Addr)
  /-- `AES256.ENC kptr, bptr` (R243). -/
  | aes256Enc (kptr bptr : Addr)
  /-- `AES256.DEC kptr, bptr` (R244). -/
  | aes256Dec (kptr bptr : Addr)
  /-- `AES256.DERIVE kptr, dptr` (R245). -/
  | aes256Derive (kptr dptr : Addr)
  /-- `AES128.EXPAND kptr, sptr` (R261). -/
  | aes128Expand (kptr sptr : Addr)
  /-- `AES128.CTR sptr, cptr, n, dptr` (R263). -/
  | aes128Ctr (sptr cptr : Addr) (n : Count) (dptr : Addr)
  /-- `AES.SBOX byte` (R191). -/
  | aesSbox (byte : Byte)
  /-- `AES.ISBOX byte` (R192). -/
  | aesIsbox (byte : Byte)
  /-- `AES.SUBBYTES bptr` (R201). -/
  | aesSubBytes (bptr : Addr)
  /-- `AES.ISUBBYTES bptr` (R202). -/
  | aesIsubBytes (bptr : Addr)
  /-- `AES.SHIFTROWS bptr` (R203). -/
  | aesShiftRows (bptr : Addr)
  /-- `AES.ISHIFTROWS bptr` (R204). -/
  | aesIshiftRows (bptr : Addr)
  /-- `AES.MIXCOLUMNS bptr` (R205). -/
  | aesMixColumns (bptr : Addr)
  /-- `AES.IMIXCOLUMNS bptr` (R206). -/
  | aesImixColumns (bptr : Addr)
  /-- `AES.ADDROUNDKEY bptr, kptr` (R200). -/
  | aesAddRoundKey (bptr kptr : Addr)
  /-- `AES.KS128F kptr, byte` (R223). -/
  | aesKs128f (kptr : Addr) (byte : Byte)
  /-- `AES.KS128I kptr, byte` (R224). -/
  | aesKs128i (kptr : Addr) (byte : Byte)
  /-- `AES.KS256F kptr, byte` (R225). -/
  | aesKs256f (kptr : Addr) (byte : Byte)
  /-- `AES.KS256I kptr, byte` (R226). -/
  | aesKs256i (kptr : Addr) (byte : Byte)
  /-- `GF.MUL2 byte` (R170). -/
  | gfMul2 (byte : Byte)
  /-- `GF.DIV2 byte` (R171). -/
  | gfDiv2 (byte : Byte)
  /-- `GF.LOG byte` (R172). -/
  | gfLog (byte : Byte)
  /-- `GF.ALOG byte` (R173). -/
  | gfAlog (byte : Byte)
  /-- `GF.INV byte` (R174). -/
  | gfInv (byte : Byte)
  /-- `GF.MUL byte, byte` (R175). -/
  | gfMul (byte byte2 : Byte)
  /-- `EVT START` (R151). -/
  | evtStart (low : Byte)
  /-- `EVT MT_SLA_ACK` (R152). -/
  | evtMtSlaAck (low : Byte)
  /-- `EVT MT_DATA_ACK` (R153). -/
  | evtMtDataAck (low : Byte)
  /-- `EVT MR_DATA_ACK` (R155). -/
  | evtMrDataAck (low : Byte)
  /-- `EVT MR_SLA_ACK` (R156). -/
  | evtMrSlaAck (low : Byte)
  /-- `EVT MR_DATA_NACK` (R157). -/
  | evtMrDataNack (low : Byte)
  /-- `EVT MT_DATA_NACK` (R154). -/
  | evtMtDataNack (low : Byte)
  /-- `EVT MT_SLA_NACK` (R158). -/
  | evtMtSlaNack (low : Byte)
  /-- `EVT MR_SLA_NACK` (R159). -/
  | evtMrSlaNack (low : Byte)
  /-- `EVT OTHER`, with the whole status byte (R160). -/
  | evtOther (status : Byte)
deriving DecidableEq, Repr

end Sys2Proof
end

