-- ==== Sys2Proof/WellFormed.lean ====
section
/-! DEFINITION. Which terms of `Instr` are requests of the block: an opcode of a key size or of a fast
path that is configured out is none (spec/30_encoding.md R110), a recognized event carries only bits that
`STATUS_MASK` removes (R107), and `EVT OTHER` carries no recognized status (R108). The widths of the
other operands are in their types. -/

namespace Sys2Proof

/-- The nine recognized codes (R108). -/
def statusCodes : List Byte :=
  [StatusName.start, .mtSlaAck, .mtDataAck, .mrDataAck, .mrSlaAck, .mrDataNack, .mtDataNack, .mtSlaNack,
    .mrSlaNack].map Config.parameters.statusCode

/-- The status byte `b` selects one of the nine recognized names (R107, R108). -/
def recognized (b : Byte) : Bool := statusCodes.contains (b &&& Config.parameters.statusMask)

/-- Only bits that `STATUS_MASK` removes are set (R31, R107). -/
def maskedOnly (low : Byte) : Bool := decide (low &&& Config.parameters.statusMask = 0)

/-- The opcode exists under the build flags `b` (the `exists_if` of spec/opcode_table.json; R109, R110). DESIGN
CHOICE: the fast path exists by `FASTPATH` alone, whatever `KEYSIZES` (log entry 22). -/
def existsIn (b : Build) : Instr → Bool
  | .aes128Enc _ _ => b.keys128
  | .aes128Dec _ _ => b.keys128
  | .aes128Derive _ _ => b.keys128
  | .aesKs128f _ _ => b.keys128
  | .aesKs128i _ _ => b.keys128
  | .aes256Enc _ _ => b.keys256
  | .aes256Dec _ _ => b.keys256
  | .aes256Derive _ _ => b.keys256
  | .aesKs256f _ _ => b.keys256
  | .aesKs256i _ _ => b.keys256
  | .aes128Expand _ _ => b.fastPath
  | .aes128Ctr _ _ _ _ => b.fastPath
  | _ => true

/-- The bits beside the code are those the mask removes (R107), and `EVT OTHER` is the status name of every value
that is not one of the nine (R108). -/
def statusFits : Instr → Bool
  | .evtStart low => maskedOnly low
  | .evtMtSlaAck low => maskedOnly low
  | .evtMtDataAck low => maskedOnly low
  | .evtMrDataAck low => maskedOnly low
  | .evtMrSlaAck low => maskedOnly low
  | .evtMrDataNack low => maskedOnly low
  | .evtMtDataNack low => maskedOnly low
  | .evtMtSlaNack low => maskedOnly low
  | .evtMrSlaNack low => maskedOnly low
  | .evtOther status => !recognized status
  | _ => true

/-- Well-formed under the build flags `b`. -/
def WellFormedIn (b : Build) (i : Instr) : Bool := existsIn b i && statusFits i

/-- Well-formed under the model's own configuration. -/
def WellFormed (i : Instr) : Bool := WellFormedIn Config.parameters.build i

end Sys2Proof
end

