-- ==== Sys2Proof/Decode.lean ====
section
/-! DEFINITION. The decoder and the encoder of the two formats (spec/30_encoding.md R100 to R113).
A command is its opcode byte and then its operand fields in the order of R103 and R104; an event is one
byte. The spec gives the fields and their widths, not a byte serialisation: this file takes as many bytes as
the field's width needs, low byte first, the bits above the width 0 (log entry 5). -/

namespace Sys2Proof

/-- Why a byte string is no command. -/
inductive DecodeError where
  /-- There is no opcode byte. -/
  | noOpcode
  /-- The opcode byte is not in the opcode map, or is configured out (R110). -/
  | reservedOpcode (op : Byte)
  /-- The operand bytes are not as many as the opcode's fields take (R101, R113). -/
  | wrongLength (op : Byte)
  /-- The bytes of an operand have a bit above its width set, as bit 7 of the byte that carries `addr7`: "the port
  has no eighth bit" (R102). -/
  | operandTooWide (op : Byte)
deriving DecidableEq, Repr

/-! ### Operand fields -/

/-- How many bytes carry a field of `w` bits (log entry 5). -/
def fieldLen (w : Nat) : Nat := (w + 7) / 8

/-- The `k` low bytes of a number, low byte first. -/
def lowBytes : Nat → Nat → List Byte
  | 0, _ => []
  | k + 1, v => BitVec.ofNat 8 v :: lowBytes k (v / 256)

/-- The bytes that carry a field, low byte first (log entry 5). -/
def fieldBytes {w : Nat} (v : BitVec w) : List Byte := lowBytes (fieldLen w) v.toNat

/-- The number in the first `k` bytes, low byte first, and the bytes after them; none where there are fewer. -/
def takeBytes : Nat → List Byte → Option (Nat × List Byte)
  | 0, bytes => some (0, bytes)
  | _ + 1, [] => none
  | k + 1, b :: bytes =>
    match takeBytes k bytes with
    | none => none
    | some (v, rest) => some (b.toNat + 256 * v, rest)

/-- Take a field of `w` bits off the operand bytes and go on with the rest (log entry 5). -/
def takeField (w : Nat) (op : Byte) (bytes : List Byte)
    (next : BitVec w → List Byte → Except DecodeError Instr) : Except DecodeError Instr :=
  match takeBytes (fieldLen w) bytes with
  | none => .error (.wrongLength op)
  | some (v, rest) => if v < 2 ^ w then next (BitVec.ofNat w v) rest else .error (.operandTooWide op)

/-- All operands are taken: no byte is left over (R101, R113). -/
def operandsEnd (op : Byte) (i : Instr) : List Byte → Except DecodeError Instr
  | [] => .ok i
  | _ :: _ => .error (.wrongLength op)

/-- Commands with the operand `byte` (R104). -/
def operandsByte (op : Byte) (i : Byte → Instr) (bytes : List Byte) : Except DecodeError Instr :=
  takeField 8 op bytes fun b => operandsEnd op (i b)

/-- Commands with the operands `byte`, `byte` (R109). -/
def operandsByteByte (op : Byte) (i : Byte → Byte → Instr) (bytes : List Byte) : Except DecodeError Instr :=
  takeField 8 op bytes fun a => operandsByte op (i a)

/-- Commands with one `ptr` operand (R104). -/
def operandsPtr (op : Byte) (i : Addr → Instr) (bytes : List Byte) : Except DecodeError Instr :=
  takeField Config.parameters.ptrW op bytes fun p => operandsEnd op (i p)

/-- Commands with two `ptr` operands (R104). -/
def operandsPtrPtr (op : Byte) (i : Addr → Addr → Instr) (bytes : List Byte) : Except DecodeError Instr :=
  takeField Config.parameters.ptrW op bytes fun p => operandsPtr op (i p)

/-- Commands with a `ptr` and a `byte` operand (R104). -/
def operandsPtrByte (op : Byte) (i : Addr → Byte → Instr) (bytes : List Byte) : Except DecodeError Instr :=
  takeField Config.parameters.ptrW op bytes fun p => operandsByte op (i p)

/-- The operands `sptr`, `cptr`, `n`, `dptr` of `AES128.CTR` (R104). -/
def operandsCtr (op : Byte) (i : Addr → Addr → Count → Addr → Instr) (bytes : List Byte) :
    Except DecodeError Instr :=
  takeField Config.parameters.ptrW op bytes fun s bytes =>
    takeField Config.parameters.ptrW op bytes fun c bytes =>
      takeField Config.parameters.ctrNW op bytes fun n => operandsPtr op (i s c n)

/-- The operands `addr7`, `byte`; "the port has no eighth bit" (R102, R103). -/
def operandsAddrByte (op : Byte) (i : BitVec 7 → Byte → Instr) (bytes : List Byte) : Except DecodeError Instr :=
  takeField 7 op bytes fun a => operandsByte op (i a)

/-- The operands `addr7`, `len`, `ptr` (R102, R103). -/
def operandsAddrLenPtr (op : Byte) (i : BitVec 7 → Len → Addr → Instr) (bytes : List Byte) :
    Except DecodeError Instr :=
  takeField 7 op bytes fun a bytes =>
    takeField Config.parameters.lenW op bytes fun n => operandsPtr op (i a n)

/-! ### Commands -/

/-- The opcode map of R109 for the TWI unit. -/
def decodeTwi (op : Byte) (rest : List Byte) : Except DecodeError Instr :=
  if op = 0x00 then operandsEnd op .twiInit rest
  else if op = 0x01 then operandsAddrLenPtr op .twiWrite rest
  else if op = 0x02 then operandsAddrByte op .twiWrite1 rest
  else if op = 0x03 then operandsAddrLenPtr op .twiRead rest
  else .error (.reservedOpcode op)

/-- The opcode map of R109 for the AES unit; `b` says which rows exist (R110). DESIGN CHOICE: where 128 is not in
`KEYSIZES` but `FASTPATH` is true, the two fast-path opcodes exist; R109's table and the `exists_if` of
spec/opcode_table.json tie them to `FASTPATH` alone, R110 and D28 can be read the other way (log entry 22). -/
def decodeAes (b : Build) (op : Byte) (rest : List Byte) : Except DecodeError Instr :=
  if op = 0x40 ∧ b.keys128 = true then operandsPtrPtr op .aes128Enc rest
  else if op = 0x41 ∧ b.keys128 = true then operandsPtrPtr op .aes128Dec rest
  else if op = 0x42 ∧ b.keys128 = true then operandsPtrPtr op .aes128Derive rest
  else if op = 0x44 ∧ b.keys256 = true then operandsPtrPtr op .aes256Enc rest
  else if op = 0x45 ∧ b.keys256 = true then operandsPtrPtr op .aes256Dec rest
  else if op = 0x46 ∧ b.keys256 = true then operandsPtrPtr op .aes256Derive rest
  else if op = 0x48 ∧ b.fastPath = true then operandsPtrPtr op .aes128Expand rest
  else if op = 0x49 ∧ b.fastPath = true then operandsCtr op .aes128Ctr rest
  else if op = 0x50 then operandsByte op .aesSbox rest
  else if op = 0x51 then operandsByte op .aesIsbox rest
  else if op = 0x52 then operandsPtr op .aesSubBytes rest
  else if op = 0x53 then operandsPtr op .aesIsubBytes rest
  else if op = 0x54 then operandsPtr op .aesShiftRows rest
  else if op = 0x55 then operandsPtr op .aesIshiftRows rest
  else if op = 0x56 then operandsPtr op .aesMixColumns rest
  else if op = 0x57 then operandsPtr op .aesImixColumns rest
  else if op = 0x58 then operandsPtrPtr op .aesAddRoundKey rest
  else if op = 0x59 ∧ b.keys128 = true then operandsPtrByte op .aesKs128f rest
  else if op = 0x5A ∧ b.keys128 = true then operandsPtrByte op .aesKs128i rest
  else if op = 0x5B ∧ b.keys256 = true then operandsPtrByte op .aesKs256f rest
  else if op = 0x5C ∧ b.keys256 = true then operandsPtrByte op .aesKs256i rest
  else .error (.reservedOpcode op)

/-- The opcode map of R109 for the GF unit. -/
def decodeGf (op : Byte) (rest : List Byte) : Except DecodeError Instr :=
  if op = 0x80 then operandsByte op .gfMul2 rest
  else if op = 0x81 then operandsByte op .gfDiv2 rest
  else if op = 0x82 then operandsByte op .gfLog rest
  else if op = 0x83 then operandsByte op .gfAlog rest
  else if op = 0x84 then operandsByte op .gfInv rest
  else if op = 0x85 then operandsByteByte op .gfMul rest
  else .error (.reservedOpcode op)

/-- The unit an opcode byte names, `op[7:6]` (R101). -/
def opUnit (op : Byte) : BitVec 2 := op.extractLsb' 6 2

/-- Decode a command under the build flags `b`: the unit by `op[7:6]`, the function by `op[5:0]` (R101). -/
def decodeCmdIn (b : Build) : List Byte → Except DecodeError Instr
  | [] => .error .noOpcode
  | op :: rest =>
    if opUnit op = 0 then decodeTwi op rest
    else if opUnit op = 1 then decodeAes b op rest
    else if opUnit op = 2 then decodeGf op rest
    else .error (.reservedOpcode op)

/-- Decode a command of the model's own configuration. -/
def decodeCmd (bytes : List Byte) : Except DecodeError Instr := decodeCmdIn Config.parameters.build bytes

/-! ### Events -/

/-- The bits of a status byte that `STATUS_MASK` removes, which the block ignores (R31, R107). -/
def ignoredBits (b : Byte) : Byte := b &&& ~~~Config.parameters.statusMask

/-- Decode an event: `code = TW_STATUS & STATUS_MASK` selects the status name, and every value that is
not one of the nine codes is `OTHER` (R107, R108, R111). -/
def decodeEvt (b : Byte) : Instr :=
  let code := b &&& Config.parameters.statusMask
  let codeOf := Config.parameters.statusCode
  if code = codeOf .start then .evtStart (ignoredBits b)
  else if code = codeOf .mtSlaAck then .evtMtSlaAck (ignoredBits b)
  else if code = codeOf .mtDataAck then .evtMtDataAck (ignoredBits b)
  else if code = codeOf .mrDataAck then .evtMrDataAck (ignoredBits b)
  else if code = codeOf .mrSlaAck then .evtMrSlaAck (ignoredBits b)
  else if code = codeOf .mrDataNack then .evtMrDataNack (ignoredBits b)
  else if code = codeOf .mtDataNack then .evtMtDataNack (ignoredBits b)
  else if code = codeOf .mtSlaNack then .evtMtSlaNack (ignoredBits b)
  else if code = codeOf .mrSlaNack then .evtMrSlaNack (ignoredBits b)
  else .evtOther b

/-- Decode a request of either format; an event is always one byte (R113). -/
def decode : Format → List Byte → Except DecodeError Instr
  | .cmd, bytes => decodeCmd bytes
  | .evt, [b] => .ok (decodeEvt b)
  | .evt, [] => .error .noOpcode
  | .evt, b :: _ :: _ => .error (.wrongLength b)

/-! ### The encoder -/

/-- The status byte of a recognized name: its code with the ignored bits `low` (R107, R108). -/
def statusByte (name : StatusName) (low : Byte) : Byte := Config.parameters.statusCode name ||| low

/-- The format and the bytes of a request (R101, R103, R104, R107, R109). -/
def encode : Instr → Format × List Byte
  | .twiInit => (.cmd, [0x00])
  | .twiWrite a n p => (.cmd, 0x01 :: (fieldBytes a ++ (fieldBytes n ++ fieldBytes p)))
  | .twiWrite1 a b => (.cmd, 0x02 :: (fieldBytes a ++ fieldBytes b))
  | .twiRead a n p => (.cmd, 0x03 :: (fieldBytes a ++ (fieldBytes n ++ fieldBytes p)))
  | .aes128Enc k b => (.cmd, 0x40 :: (fieldBytes k ++ fieldBytes b))
  | .aes128Dec k b => (.cmd, 0x41 :: (fieldBytes k ++ fieldBytes b))
  | .aes128Derive k d => (.cmd, 0x42 :: (fieldBytes k ++ fieldBytes d))
  | .aes256Enc k b => (.cmd, 0x44 :: (fieldBytes k ++ fieldBytes b))
  | .aes256Dec k b => (.cmd, 0x45 :: (fieldBytes k ++ fieldBytes b))
  | .aes256Derive k d => (.cmd, 0x46 :: (fieldBytes k ++ fieldBytes d))
  | .aes128Expand k s => (.cmd, 0x48 :: (fieldBytes k ++ fieldBytes s))
  | .aes128Ctr s c n d => (.cmd, 0x49 :: (fieldBytes s ++ (fieldBytes c ++ (fieldBytes n ++ fieldBytes d))))
  | .aesSbox b => (.cmd, 0x50 :: fieldBytes b)
  | .aesIsbox b => (.cmd, 0x51 :: fieldBytes b)
  | .aesSubBytes p => (.cmd, 0x52 :: fieldBytes p)
  | .aesIsubBytes p => (.cmd, 0x53 :: fieldBytes p)
  | .aesShiftRows p => (.cmd, 0x54 :: fieldBytes p)
  | .aesIshiftRows p => (.cmd, 0x55 :: fieldBytes p)
  | .aesMixColumns p => (.cmd, 0x56 :: fieldBytes p)
  | .aesImixColumns p => (.cmd, 0x57 :: fieldBytes p)
  | .aesAddRoundKey b k => (.cmd, 0x58 :: (fieldBytes b ++ fieldBytes k))
  | .aesKs128f k c => (.cmd, 0x59 :: (fieldBytes k ++ fieldBytes c))
  | .aesKs128i k c => (.cmd, 0x5A :: (fieldBytes k ++ fieldBytes c))
  | .aesKs256f k c => (.cmd, 0x5B :: (fieldBytes k ++ fieldBytes c))
  | .aesKs256i k c => (.cmd, 0x5C :: (fieldBytes k ++ fieldBytes c))
  | .gfMul2 b => (.cmd, 0x80 :: fieldBytes b)
  | .gfDiv2 b => (.cmd, 0x81 :: fieldBytes b)
  | .gfLog b => (.cmd, 0x82 :: fieldBytes b)
  | .gfAlog b => (.cmd, 0x83 :: fieldBytes b)
  | .gfInv b => (.cmd, 0x84 :: fieldBytes b)
  | .gfMul a b => (.cmd, 0x85 :: (fieldBytes a ++ fieldBytes b))
  | .evtStart l => (.evt, [statusByte .start l])
  | .evtMtSlaAck l => (.evt, [statusByte .mtSlaAck l])
  | .evtMtDataAck l => (.evt, [statusByte .mtDataAck l])
  | .evtMrDataAck l => (.evt, [statusByte .mrDataAck l])
  | .evtMrSlaAck l => (.evt, [statusByte .mrSlaAck l])
  | .evtMrDataNack l => (.evt, [statusByte .mrDataNack l])
  | .evtMtDataNack l => (.evt, [statusByte .mtDataNack l])
  | .evtMtSlaNack l => (.evt, [statusByte .mtSlaNack l])
  | .evtMrSlaNack l => (.evt, [statusByte .mrSlaNack l])
  | .evtOther b => (.evt, [b])

/-! ### Words of the opcode table -/

/-- How many bytes the command with the opcode byte `op` takes, 0 where the opcode is reserved: "the
opcode byte alone decides which operand fields follow and so the length of the command" (R101). -/
def requestLength (op : Byte) : Nat :=
  let ptr := fieldLen Config.parameters.ptrW
  if op = 0x00 then 1
  else if op = 0x01 ∨ op = 0x03 then 1 + fieldLen 7 + fieldLen Config.parameters.lenW + ptr
  else if op = 0x02 then 1 + fieldLen 7 + 1
  else if op = 0x40 ∨ op = 0x41 ∨ op = 0x42 ∨ op = 0x44 ∨ op = 0x45 ∨ op = 0x46 ∨ op = 0x48 then
    1 + ptr + ptr
  else if op = 0x49 then 1 + ptr + ptr + fieldLen Config.parameters.ctrNW + ptr
  else if op = 0x50 ∨ op = 0x51 then 2
  else if op = 0x52 ∨ op = 0x53 ∨ op = 0x54 ∨ op = 0x55 ∨ op = 0x56 ∨ op = 0x57 then 1 + ptr
  else if op = 0x58 then 1 + ptr + ptr
  else if op = 0x59 ∨ op = 0x5A ∨ op = 0x5B ∨ op = 0x5C then 1 + ptr + 1
  else if op = 0x80 ∨ op = 0x81 ∨ op = 0x82 ∨ op = 0x83 ∨ op = 0x84 then 2
  else if op = 0x85 then 3
  else 0

/-- The first `k` bytes of a table word, byte 0 from bits 7..0, every bit from `nbits` up read as 0. -/
def wordBytes (nbits w : Nat) : Nat → List Byte
  | 0 => []
  | k + 1 => BitVec.ofNat 8 (w % 2 ^ nbits) :: wordBytes (nbits - 8) (w / 256) k

/-- The command a table word stands for, with operands of zeros above `nbits`; empty where its first
byte is no opcode. -/
def tableCommand (nbits w : Nat) : List Byte :=
  wordBytes nbits w (requestLength (BitVec.ofNat 8 (w % 2 ^ nbits)))

/-- The instruction the decoder reads from a word of the opcode table. The table's rows share one byte
and do not say which port it comes in at: a byte that is an opcode is read as a command, every other
byte as an event (log entry 7). -/
def decodeTableWord (nbits w : Nat) : Option Instr :=
  if nbits < 8 then none
  else match tableCommand nbits w with
    | [] => some (decodeEvt (BitVec.ofNat 8 w))
    | op :: rest => (decodeCmd (op :: rest)).toOption

end Sys2Proof
end

