-- ==== Sys2Proof/Machine/State.lean ====
section
/-! DEFINITION. The state of lillib CORE as plain data, its reset, and the reasons a step can stop.
Every register of spec/10_state.md is a field; the constant tables of R45 are constants
(Machine/Tables.lean), since no operation writes them. -/

namespace Sys2Proof.Machine

/-- The two execution contexts of the host CPU (R16, R289). -/
inductive Context where
  /-- The blocking caller. -/
  | main
  /-- The interrupt handler. -/
  | irq
deriving DecidableEq, Repr

/-- Which part of the blocking operation MAIN is in (R27). -/
inductive Phase where
  /-- No TWI operation is executing. -/
  | idle
  /-- Part (e): from the START request until MAIN has seen a non-pending result. -/
  | waitResult
  /-- Part (f): MAIN waits for the STOP condition to complete. -/
  | waitStop
deriving DecidableEq, Repr

/-- The three values of `tw_result` (R25); their bytes are `TwResult.code` (Machine/Flags.lean). -/
inductive TwResult where
  | pending
  | success
  | failure
deriving DecidableEq, Repr

/-- What a completed command hands back at the command port (R101, R102). -/
inductive Response where
  /-- Completion only: "commands whose output is written in place in `BUF` return nothing but their completion". -/
  | done
  /-- `val`: the value of a GF or S-box function. -/
  | val (b : Byte)
  /-- `ret`: the TWI result. -/
  | ret (r : TwResult)
deriving DecidableEq, Repr

/-- One move of an agent: what the outside world does next, in order. The spec leaves these moves free (R290,
R291); the list of them is data of the state (log entry 6). DESIGN CHOICE: `TW_STATUS` changes, and PERIPH changes
`TW_DATA`, only by raising an event; R290 and R291 do not say that they keep their values between events, and R296
says so for `TW_DATA` between a receive event and its read only (log entry 23). -/
inductive Move where
  /-- MAIN takes its next step: one poll of the spin-wait it is in, or nothing while it is idle (R135). -/
  | poll
  /-- A command arrives at the command port from the context `ctx` (R100, R101, R289); which context can send one
  when is `sentBy` (Machine/Ops.lean). -/
  | command (ctx : Context) (bytes : List Byte)
  /-- PERIPH raises an event with this bus status and this data register (R291). -/
  | raise (status data : Byte)
  /-- PERIPH's stop-complete step (R293). -/
  | stopComplete
  /-- The caller, or another agent of the platform, writes one byte of `BUF`, "caller-owned memory" (R70). Into
  the buffer of a transaction in flight this is R83's race: the order of the moves is one of its outcomes. -/
  | store (addr : Addr) (value : Byte)
  /-- A reset, of any kind (R310, R311). -/
  | powerCycle
deriving DecidableEq, Repr

/-- The memory: the listed bytes of `BUF`, addresses strictly rising (Machine/Ops.lean). -/
abbrev Memory := List Host.Cell

structure State where
  /-- `tw_addr`: device address in bits [7:1], direction in bit [0] (R22). -/
  twAddr : Byte
  /-- `tw_remaining`: bytes left to transfer (R23). -/
  twRemaining : Len
  /-- `tw_cursor`: address of the next byte in `BUF` (R24). -/
  twCursor : Addr
  /-- `tw_result` (R25). -/
  twResult : TwResult
  /-- `tw_imm`: the byte of `write_one_byte` (R26). -/
  twImm : Byte
  /-- `tw_src`: 1 (true) transmits `tw_imm`, 0 (false) transmits from `BUF` (R26). -/
  twSrc : Bool
  /-- `tw_phase` (R27). -/
  twPhase : Phase
  /-- `TW_STATUS`: written by PERIPH, read by IRQ (R31). -/
  twStatus : Byte
  /-- `TW_DATA` (R32). -/
  twData : Byte
  /-- `TW_CTRL` as it reads: bit `INT` is the pending request (R33, R37, R284). -/
  twCtrl : Byte
  /-- `TW_BITRATE` (R34). -/
  twBitrate : Byte
  /-- `TW_OWNADDR` (R35). -/
  twOwnaddr : Byte
  /-- `st[0..15]`, the cipher state (R40). -/
  st : Block
  /-- `rk[0..31]`, the working key (R41). -/
  rk : Key256
  /-- `rcon`, the round constant (R42). -/
  rcon : Byte
  /-- `round`, the round counter (R43). -/
  round : BitVec 4
  /-- `ctr[0..15]`, the counter (R44). -/
  ctr : Block
  /-- `sched[0..175]`, the expanded schedule (R44). -/
  sched : Schedule
  /-- `n`, the blocks still to process (R44). -/
  n : Count
  /-- `BUF`, the caller buffer space (R70). -/
  buf : Memory
  /-- The context that takes the current step; MAIN between steps (R16, R286, R287). -/
  context : Context
  /-- What the last command of MAIN handed back; none while none has completed (R101, R131). -/
  respMain : Option Response
  /-- What the last command of IRQ handed back; none while none has completed (R101, R289). -/
  respIrq : Option Response
  /-- The model's own field: the moves of the outside world still to come (log entry 6). -/
  script : List Move
deriving DecidableEq, Repr

/-- Why the machine stops where the spec has no such move. -/
inductive Fault where
  /-- A byte string at the command port that is no command: too few or too many operand bytes, or a
  device address above 0x7F. Raised by the command port (Machine/Ops.lean, `badRequest`). Safe: "the port
  has no eighth bit" (R102) and the opcode byte fixes the length (R101), so no caller can send one. -/
  | malformedRequest
  /-- PERIPH raises an event while one is pending. Raised by `periphRaise`. Safe: R291 and R296 say that
  PERIPH has no such move. -/
  | eventStillPending
  /-- MAIN sends an AES or GF command while it is blocked in a transaction. Raised by `sentBy`. Safe: MAIN "is
  blocked for the whole of a transaction" and has no such step (R289). -/
  | mainBlocked
  /-- IRQ sends a command while no interrupt is enabled and pending. Raised by `sentBy`. Safe: IRQ is "entered by the
  interrupt, left when the rule is done" (R289), so it has no such step. -/
  | outsideHandler
deriving DecidableEq, Repr

/-- The refusals of R282: requests to which the spec gives no meaning, each named by it. All are safe. -/
inductive Refusal where
  /-- An instruction whose meaning is not written; no arm answers so in this model. Safe. -/
  | notModelled (mnemonic : String)
  /-- A TWI command outside context MAIN or while `tw_phase` is not `IDLE` (R136). Raised by the TWI commands. -/
  | twiBusy
  /-- `TWI.READ` with length 0 (R137). Raised by `TWI.READ`. -/
  | readLengthZero
  /-- An event while no transaction is in flight (R150). Raised by the events and by `periphRaise`. -/
  | eventOutsideTransaction
  /-- A receive status with `tw_remaining` = 0 (R155, R157). Raised by `EVT MR_DATA_ACK` and `EVT MR_DATA_NACK`. -/
  | readOverrun
  /-- `GF.LOG 0` (R172). Raised by `GF.LOG`. -/
  | logOfZero
  /-- An opcode byte that is not in the opcode map or is configured out (R110). Raised by the command port. -/
  | reservedOpcode (op : Byte)
  /-- Two different operands of one AES command overlap in `BUF` (R88). Raised by the AES commands. -/
  | operandOverlap
deriving DecidableEq, Repr

/-- The outcome of a step or of an instruction. -/
abbrev Outcome := Host.Outcome State Fault Refusal

/-- The machine right after reset: `tw_phase` = `IDLE` and `TW_CTRL` all zero (R50, R51, R53); nothing
listed in `BUF`, no move to come. Every other value is the model's (log entries 3 and 4): the spec gives
none, the peripheral's registers hold the AVR family's reset values, the rest is zero. -/
def State.reset : State where
  twAddr := 0
  twRemaining := 0
  twCursor := 0
  twResult := .success
  twImm := 0
  twSrc := false
  twPhase := .idle
  twStatus := 0xF8
  twData := 0xFF
  twCtrl := 0
  twBitrate := 0
  twOwnaddr := 0xFE
  st := Vector.replicate 16 0
  rk := Vector.replicate 32 0
  rcon := 0
  round := 0
  ctr := Vector.replicate 16 0
  sched := Vector.replicate 176 0
  n := 0
  buf := []
  context := .main
  respMain := none
  respIrq := none
  script := []

end Sys2Proof.Machine
end

