-- ==== Sys2Proof/Machine/Flags.lean ====
section
/-! DEFINITION. The flags of the block: the three values of `tw_result` as bytes (spec/10_state.md R25),
the six one-bit fields of `TW_CTRL` (R33, R37), the six actions (R36), and the interrupt request
(spec/60_exceptions.md R284). No AES or GF operation reads or writes a flag (R37). -/

namespace Sys2Proof.Machine

/-- The byte of a `tw_result` value: 0 for `SUCCESS`, nonzero for the other two (R25). -/
def TwResult.code : TwResult → Byte
  | .pending => Config.parameters.resultPending
  | .success => Config.parameters.resultSuccess
  | .failure => Config.parameters.resultFailure

/-- The result byte a completed command returns, if it returns one (R101, R102). -/
def Response.byte : Response → Option Byte
  | .done => none
  | .val b => some b
  | .ret r => some r.code

/-- The byte with only bit `pos` set. -/
def bitAt (pos : Nat) : Byte := BitVec.twoPow 8 pos

/-- Bit `pos` of `TW_CTRL` cleared. -/
def clearBit (b : Byte) (pos : Nat) : Byte := b &&& ~~~(bitAt pos)

/-- Bit `pos` of `TW_CTRL` set. -/
def setBit (b : Byte) (pos : Nat) : Byte := b ||| bitAt pos

/-- `TW_CTRL.INT` as it reads: an event is pending (R284). -/
def ctrlIntSet (c : Byte) : Bool := c.getLsbD Config.ctrlInt
/-- `TW_CTRL.EA` (R33). -/
def ctrlEaSet (c : Byte) : Bool := c.getLsbD Config.ctrlEa
/-- `TW_CTRL.STA` (R33). -/
def ctrlStaSet (c : Byte) : Bool := c.getLsbD Config.ctrlSta
/-- `TW_CTRL.STO` (R33, R293). -/
def ctrlStoSet (c : Byte) : Bool := c.getLsbD Config.ctrlSto
/-- `TW_CTRL.EN` (R33). -/
def ctrlEnSet (c : Byte) : Bool := c.getLsbD Config.ctrlEn
/-- `TW_CTRL.IE` (R33). -/
def ctrlIeSet (c : Byte) : Bool := c.getLsbD Config.ctrlIe

/-- The six named bits of `TW_CTRL` (R33). -/
def ctrlNamedBits : Byte :=
  bitAt Config.ctrlInt ||| bitAt Config.ctrlEa ||| bitAt Config.ctrlSta ||| bitAt Config.ctrlSto |||
  bitAt Config.ctrlEn ||| bitAt Config.ctrlIe

/-- The other bits of `TW_CTRL`, by default bits 3 and 1, read as the block writes them: 0 (R33). -/
def ctrlUnusedClear (c : Byte) : Bool := decide (c &&& ~~~ctrlNamedBits = 0)

/-- Every write of `TW_CTRL` by the block is one of these (R36). -/
inductive Action where
  | enable
  | start
  | continue_
  | continueAck
  | stop
  | none
deriving DecidableEq, Repr

/-- A whole byte of `TW_CTRL` from its six named bits; the others are "written as 0" (R33). -/
def ctrlByte (int ea sta sto en ie : Bool) : Byte :=
  (if int then bitAt Config.ctrlInt else 0) ||| (if ea then bitAt Config.ctrlEa else 0) |||
  (if sta then bitAt Config.ctrlSta else 0) ||| (if sto then bitAt Config.ctrlSto else 0) |||
  (if en then bitAt Config.ctrlEn else 0) ||| (if ie then bitAt Config.ctrlIe else 0)

/-- The byte an action writes, none for `ACT_NONE` (R36's table, columns INT EA STA STO EN IE). -/
def actionByte : Action → Option Byte
  | .enable => some (ctrlByte false false false false true true)
  | .start => some (ctrlByte true false true false true true)
  | .continue_ => some (ctrlByte true false false false true true)
  | .continueAck => some (ctrlByte true true false false true true)
  | .stop => some (ctrlByte true false false true true true)
  | .none => Option.none

/-- What `TW_CTRL` reads after the block wrote `new` over `old`: every bit as written but `INT`, which is
the peripheral's request; writing it 1 acknowledges the event, writing it 0 "does not acknowledge an event"
(R36, R130, R284; log entry 8). -/
def ctrlWrite (old new : Byte) : Byte :=
  if ctrlIntSet new then clearBit new Config.ctrlInt
  else if ctrlIntSet old then setBit new Config.ctrlInt
  else new

/-- What `TW_CTRL` reads after an action. `ACT_NONE` writes nothing and the handler's step consumes the
event (R284, log entry 9). -/
def ctrlAfter (a : Action) (old : Byte) : Byte :=
  match actionByte a with
  | some new => ctrlWrite old new
  | Option.none => clearBit old Config.ctrlInt

/-- The handler can run: the interrupt is enabled (`EN` and `IE`) and pending (`INT`) (R284). -/
def irqReady (s : State) : Bool := ctrlIntSet s.twCtrl && ctrlEnSet s.twCtrl && ctrlIeSet s.twCtrl

/-- A transaction is in flight: from the START request until the handler has written a non-pending
result (R18, R150). -/
def inFlight (s : State) : Bool := decide (s.twPhase = .waitResult) && decide (s.twResult = .pending)

end Sys2Proof.Machine
end

