-- ==== Sys2Proof/Machine/Ops.lean ====
section
/-! DEFINITION. The named operations over memory and registers that the meanings share: the buffer space
`BUF` (spec/20_memory.md R70, R79, R89), the actions (spec/10_state.md R36), entering and leaving a context
(spec/60_exceptions.md R286, R287), MAIN's polls (spec/40_twi_commands.md R131, R135), the steps of the
environment agent PERIPH (R291, R293), the answers of a command. -/

namespace Sys2Proof.Machine

/-! ### The buffer space -/

/-- What a byte of `BUF` that nothing has written reads as (log entry 10). -/
def Memory.unlisted : Byte := 0

/-- The byte at an address. -/
def Memory.read : Memory → Nat → Byte
  | [], _ => Memory.unlisted
  | (k, v) :: m, a => if k = a then v else Memory.read m a

/-- Write one byte, keeping the addresses rising and listing no byte that reads as an unlisted one. -/
def Memory.write : Memory → Nat → Byte → Memory
  | [], a, b => if b = Memory.unlisted then [] else [(a, b)]
  | (k, v) :: m, a, b =>
    if a < k then (if b = Memory.unlisted then (k, v) :: m else (a, b) :: (k, v) :: m)
    else if a = k then (if b = Memory.unlisted then m else (a, b) :: m)
    else (k, v) :: Memory.write m a b

/-- Every listed address is above `lo`, the addresses rise strictly, none lies outside `BUF`, and no
listed byte equals what an unlisted address reads as. -/
def Memory.wfFrom : Option Nat → Memory → Bool
  | _, [] => true
  | lo, (k, v) :: m =>
    (match lo with | none => true | some l => decide (l < k)) &&
    decide (k < 2 ^ Config.parameters.ptrW) && decide (v ≠ Memory.unlisted) && Memory.wfFrom (some k) m

/-- The canonical form of the memory. -/
def Memory.wf (m : Memory) : Bool := Memory.wfFrom none m

/-- `MemRead(a, 1)[0]`: one byte of `BUF` (R15, R79). -/
def readByte (s : State) (a : Addr) : Byte := Memory.read s.buf a.toNat

/-- `MemWrite(a, 1, [b])`: one byte of `BUF` (R15, R79). -/
def writeByte (s : State) (a : Addr) (b : Byte) : State :=
  { s with buf := Memory.write s.buf a.toNat b }

/-- The address `i` bytes above `a`, modulo 2^`PTR_W` (R15, R89). -/
def addrAdd (a : Addr) (i : Nat) : Addr := a + BitVec.ofNat Config.parameters.ptrW i

/-- `MemRead(a, n)`: the `n` bytes from `a` upward, index 0 from address `a` (R15). -/
def readBytes (s : State) (a : Addr) (n : Nat) : Bytes n :=
  Vector.ofFn fun i => readByte s (addrAdd a i.val)

/-- Write a list of bytes upward from `a`, each address modulo 2^`PTR_W` (R15, R89). -/
def Memory.writeList : Memory → Addr → List Byte → Memory
  | m, _, [] => m
  | m, a, b :: bs => Memory.writeList (Memory.write m a.toNat b) (addrAdd a 1) bs

/-- `MemWrite(a, n, v)` (R15). -/
def writeBytes {n : Nat} (s : State) (a : Addr) (v : Bytes n) : State :=
  { s with buf := Memory.writeList s.buf a v.toList }

/-! ### The control register -/

/-- `action(A)`: the control-register write of R36. -/
def act (a : Action) (s : State) : State := { s with twCtrl := ctrlAfter a s.twCtrl }

/-! ### Contexts, the interrupt's entry and return, the answers of a command -/

/-- A request is taken in the context `c`. For `c` = IRQ this is the entry of the handler: "the block saves
nothing on entry", there is "no mode change and no stack" (R286). -/
def enterContext (c : Context) (s : State) : State := { s with context := c }

/-- The request is done and MAIN goes on where it was: "nothing is restored by the block" (R287). -/
def leaveContext (s : State) : State := { s with context := .main }

/-- The command of the current context has completed with this answer (R101, R102). -/
def respond (r : Response) (s : State) : State :=
  match s.context with
  | .main => { s with respMain := some r }
  | .irq => { s with respIrq := some r }

/-- Go on from a next state; a fault or a refusal stays what it is. -/
def mapNext (f : State → State) : Outcome → Outcome
  | .next s => .next (f s)
  | .fault r => .fault r
  | .refused r => .refused r

/-- What the command port answers to bytes that are no command: `refuse ReservedOpcode` for an opcode byte
without a meaning (R110), and a stop for what the port cannot carry at all (R101, R102). -/
def badRequest : DecodeError → Outcome
  | .reservedOpcode op => .refused (.reservedOpcode op)
  | .noOpcode => .fault .malformedRequest
  | .wrongLength _ => .fault .malformedRequest
  | .operandTooWide _ => .fault .malformedRequest

/-! ### Who may send a command -/

/-- The request is a command of the TWI unit (R101, R103). -/
def isTwiCommand : Instr → Bool
  | .twiInit => true
  | .twiWrite _ _ _ => true
  | .twiWrite1 _ _ => true
  | .twiRead _ _ _ => true
  | _ => false

/-- What a context's command comes to, `o` being its outcome where the context can send it (R289). MAIN "is blocked
for the whole of a transaction" and has no step that sends an AES or GF command meanwhile; a TWI command, which
only a second agent can send then, goes to R136's refusal. IRQ exists between the interrupt and the end of the
handler's rule, so its command comes while the interrupt is enabled and pending (R284; log entry 17). -/
def sentBy (c : Context) (i : Instr) (s : State) (o : Outcome) : Outcome :=
  match c with
  | .main => if s.twPhase = .idle ∨ isTwiCommand i = true then o else .fault .mainBlocked
  | .irq => if irqReady s then o else .fault .outsideHandler

/-- IRQ sends a command next, before the handler's rule. -/
def irqSends (s : State) : Bool :=
  match s.script with
  | .command .irq _ :: _ => true
  | _ => false

/-- The handler's rule runs in this step: the interrupt is enabled and pending (R284), and IRQ sends no command
before it. -/
def handlerRuns (s : State) : Bool := irqReady s && !irqSends s

/-! ### MAIN -/

/-- One step of MAIN outside a command: nothing while idle, else one poll of the spin-wait it is in. Part (e)
ends when the result is no longer pending; part (f) ends when `TW_CTRL.STO` reads 0, and part (g) returns
`tw_result` (R131, R135, R138). -/
def mainPoll (s : State) : State :=
  match s.twPhase with
  | .idle => s
  | .waitResult => if s.twResult = .pending then s else { s with twPhase := .waitStop }
  | .waitStop =>
    if ctrlStoSet s.twCtrl then s
    else { s with twPhase := .idle, respMain := some (.ret s.twResult) }

/-! ### PERIPH -/

/-- PERIPH raises an event: a new bus status, a new data byte and the interrupt request, "provided a
transaction is in flight and no event is already pending" (R291, R296). Outside a transaction the model
answers R150's refusal, the safe direction R296 names. -/
def periphRaise (status data : Byte) (s : State) : Outcome :=
  if !inFlight s then .refused .eventOutsideTransaction
  else if ctrlIntSet s.twCtrl then .fault .eventStillPending
  else .next { s with
    twStatus := status, twData := data, twCtrl := setBit s.twCtrl Config.ctrlInt }

/-- PERIPH's stop-complete step clears `TW_CTRL.STO` (R293). Where it reads 0 already the step shows
nothing to the block. -/
def periphStopComplete (s : State) : State := { s with twCtrl := clearBit s.twCtrl Config.ctrlSto }

/-! ### The caller's memory, reset -/

/-- The caller writes one byte of its memory (R70). -/
def callerStore (a : Addr) (b : Byte) (s : State) : State := writeByte s a b

/-- A reset comes next. It is taken before anything else: nothing outlives it (R310, R311). -/
def powerFails (s : State) : Bool :=
  match s.script with
  | .powerCycle :: _ => true
  | _ => false

/-- The machine after a reset, with the moves that follow it: "nothing persists across power cycles" (R50, R311). -/
def restart (s : State) : State := { State.reset with script := s.script.tail }

/-! ### Placing a request -/

/-- A command placed so that the next step takes it: first in the script, from MAIN, which is not blocked, with no
event pending before it (log entry 7). -/
def placeCommand (bytes : List Byte) (s : State) : State :=
  { s with
    script := .command .main bytes :: s.script
    twPhase := .idle
    twCtrl := clearBit s.twCtrl Config.ctrlInt }

/-- An event placed so that the next step delivers it: its status in `TW_STATUS`, the interrupt enabled
and pending, and the transaction in flight without which no event is delivered (R150, R284, R291; log entry 7).
A reset or a command of IRQ that was to come next comes after it. -/
def placeEvent (status : Byte) (s : State) : State :=
  { s with
    twStatus := status
    twCtrl := setBit (setBit (setBit s.twCtrl Config.ctrlInt) Config.ctrlEn) Config.ctrlIe
    twPhase := .waitResult
    twResult := .pending
    script := if powerFails s || irqSends s then .poll :: s.script else s.script }

/-- A word of the opcode table placed where the next step takes it from: at the command port where it is a
command, at the event port where it is not (log entry 7). -/
def placeTableWord (nbits w : Nat) (s : State) : State :=
  match tableCommand nbits w with
  | [] => placeEvent (BitVec.ofNat 8 (w % 2 ^ nbits)) s
  | op :: rest => placeCommand (op :: rest) s

end Sys2Proof.Machine
end

