-- ==== Sys2Proof/Machine/Operands.lean ====
section
/-! DEFINITION. Operand assembly: the TWI address byte (spec/30_encoding.md R105), the byte arrays and
their elements (spec/00_scope.md R14), the overlap of two operands in `BUF` (spec/20_memory.md R88). -/

namespace Sys2Proof.Machine

/-- `tw_addr <- ((addr7 << 1) | rw) & 0xFF` (R105, R131). -/
def addressByte (addr7 : BitVec 7) (rw : Bool) : Byte :=
  (addr7.zeroExtend 8 <<< 1) ||| (if rw then 1 else 0)

/-- The element `i` of a byte array (R14); every index the rules use is below `n`. -/
def byteAt {n : Nat} (v : Bytes n) (i : Nat) : Byte := if h : i < n then v[i] else 0

/-- The array with element `i` replaced (R15, `x[i] <- v`). -/
def setByte {n : Nat} (v : Bytes n) (i : Nat) (b : Byte) : Bytes n := v.setIfInBounds i b

/-- `v[i] <- v[i] ^ b`. -/
def xorByte {n : Nat} (v : Bytes n) (i : Nat) (b : Byte) : Bytes n := setByte v i (byteAt v i ^^^ b)

/-- The `k` bytes of an array from index `i`: `v[i..i+k-1]` (R14). -/
def slice {n : Nat} (v : Bytes n) (i k : Nat) : Bytes k := Vector.ofFn fun j => byteAt v (i + j.val)

/-- The `n` bytes from `a` and the `m` bytes from `b` share an address of `BUF`, addresses being modulo
2^`PTR_W` (R88, R89). -/
def overlaps (a : Addr) (n : Nat) (b : Addr) (m : Nat) : Bool :=
  decide (0 < n) && decide (0 < m) && (decide ((b - a).toNat < n) || decide ((a - b).toNat < m))

end Sys2Proof.Machine
end

