-- ==== Sys2Proof/Machine/Gf.lean ====
section
/-! DEFINITION. The GF unit: the primitives of GF(2^8) modulo 0x11B as functions (spec/42_gf_primitives.md
R170 to R178) and the six commands `GF.*`, each of which only answers a value (R47). -/

namespace Sys2Proof.Machine

/-- `gf_mul2`: doubling, reduced by 0x1B where the high bit was set (R170). -/
def mul2 (x : Byte) : Byte := if x.getLsbD 7 then (x <<< 1) ^^^ 0x1B else x <<< 1

/-- `gf_div2`: halving, in the closed form of R171. -/
def div2 (x : Byte) : Byte := if x.getLsbD 0 then (x >>> 1) ^^^ 0x8D else x >>> 1

/-- `gf_mul2^i(a)`: `gf_mul2` applied `i` times (R175). -/
def mul2Pow : Nat → Byte → Byte
  | 0, a => a
  | i + 1, a => mul2 (mul2Pow i a)

/-- The term of bit `i` of `b` in the product: `gf_mul2^i(a)` where the bit is 1 (R175). -/
def mulTerm (a b : Byte) (i : Nat) : Byte := if b.getLsbD i then mul2Pow i a else 0

/-- `gf_mul` by shift and add: the xor over the set bits `i` of `b` of `gf_mul2^i(a)` (R175). -/
def mul (a b : Byte) : Byte :=
  mulTerm a b 0 ^^^ mulTerm a b 1 ^^^ mulTerm a b 2 ^^^ mulTerm a b 3 ^^^
  mulTerm a b 4 ^^^ mulTerm a b 5 ^^^ mulTerm a b 6 ^^^ mulTerm a b 7

/-- `g^e` in the field (R172). -/
def power (g : Byte) : Nat → Byte
  | 0 => 1
  | e + 1 => mul g (power g e)

/-- The first `e` from `start` on, among `k` of them, with `g^e = x`; 0 where there is none. -/
def findLog (g x : Byte) (start : Nat) : Nat → Byte
  | 0 => 0
  | k + 1 => if power g start = x then BitVec.ofNat 8 start else findLog g x (start + 1) k

/-- `GF_LOG[x]`: the table R176 prints for the generator 0x03, and for another `GF_GENERATOR` the one computed by
R172's definition. -/
def gfLogRom (x : Byte) : Byte :=
  if Config.parameters.gfGenerator = 0x03 then romByte gfLogRows x
  else findLog Config.parameters.gfGenerator x 0 255

/-- `GF_ALOG[e]`: the table R177 prints for the generator 0x03, and for another `GF_GENERATOR` the one computed by
R173's definition. -/
def gfAlogRom (e : Byte) : Byte :=
  if Config.parameters.gfGenerator = 0x03 then romByte gfAlogRows e
  else power Config.parameters.gfGenerator (e.toNat % 255)

/-- `gf_log` for a nonzero operand (R172). -/
def log (x : Byte) : Byte := gfLogRom x

/-- `gf_alog` (R173). -/
def alog (e : Byte) : Byte := gfAlogRom e

/-- `gf_inv`, with the inverse of 0 taken as 0 (R174). -/
def inv (x : Byte) : Byte :=
  if x = 0 then 0 else alog (BitVec.ofNat 8 ((255 - (log x).toNat) % 255))

/-- `gf_mul` by the logarithm tables, R175's second form. -/
def mulByTables (a b : Byte) : Byte :=
  if a = 0 ∨ b = 0 then 0
  else alog (BitVec.ofNat 8 (((log a).toNat + (log b).toNat) % 255))

/-- A command that answers the value of a function and does nothing else (R46, R47, R102). -/
def answer (v : Byte) (s : State) : Outcome := .next (respond (.val v) s)

/-- `GF.MUL2 x` (R170). -/
def execGfMul2 (x : Byte) (s : State) : Outcome := answer (mul2 x) s

/-- `GF.DIV2 x` (R171). -/
def execGfDiv2 (x : Byte) (s : State) : Outcome := answer (div2 x) s

/-- `GF.LOG x`: "`x = 0` has no logarithm; the command is refused" (R172). -/
def execGfLog (x : Byte) (s : State) : Outcome :=
  if x = 0 then .refused .logOfZero else answer (log x) s

/-- `GF.ALOG e` (R173). -/
def execGfAlog (e : Byte) (s : State) : Outcome := answer (alog e) s

/-- `GF.INV x` (R174). -/
def execGfInv (x : Byte) (s : State) : Outcome := answer (inv x) s

/-- `GF.MUL a, b` (R175). -/
def execGfMul (a b : Byte) (s : State) : Outcome := answer (mul a b) s

end Sys2Proof.Machine
end

