-- ==== Sys2Proof/Machine/AesRound.lean ====
section
/-! DEFINITION. The S-box provider (spec/43_aes_sbox.md R190 to R196), the round functions
(spec/44_aes_round.md R200 to R207) and their commands, which work in place on sixteen bytes of `BUF`. -/

namespace Sys2Proof.Machine

/-! ### The S-box -/

/-- `rotl8(b, n)` (R14). -/
def rotl8 (b : Byte) (n : Nat) : Byte := (b <<< n) ||| (b >>> (8 - n))

/-- `affine(b)` (R190). -/
def affine (b : Byte) : Byte := b ^^^ rotl8 b 1 ^^^ rotl8 b 2 ^^^ rotl8 b 3 ^^^ rotl8 b 4 ^^^ 0x63

/-- `affine_inv(y)` (R194). -/
def affineInv (y : Byte) : Byte := rotl8 y 1 ^^^ rotl8 y 3 ^^^ rotl8 y 6 ^^^ 0x05

/-- The S-box by a strategy: the table read or the evaluation of R190 (R191, R193). -/
def sboxBy : Strategy → Byte → Byte
  | .table, x => sboxRom x
  | .computed, x => affine (inv x)

/-- The inverse S-box by a strategy (R192, R193, R194). -/
def invSboxBy : Strategy → Byte → Byte
  | .table, y => invSboxRom y
  | .computed, y => inv (affineInv y)

/-- `S`, by the configured strategy (R12, R191). -/
def sbox (x : Byte) : Byte := sboxBy Config.parameters.sboxStrategy x

/-- `S_inv`, by the configured strategy (R12, R192). -/
def invSbox (y : Byte) : Byte := invSboxBy Config.parameters.sboxStrategy y

/-! ### The round functions -/

/-- `add_round_key(st, k)` (R200). -/
def addRoundKey (st k : Block) : Block := Vector.ofFn fun i => byteAt st i.val ^^^ byteAt k i.val

/-- `sub_bytes(st)` (R201). -/
def subBytes (st : Block) : Block := Vector.ofFn fun i => sbox (byteAt st i.val)

/-- `inv_sub_bytes(st)` (R202). -/
def invSubBytes (st : Block) : Block := Vector.ofFn fun i => invSbox (byteAt st i.val)

/-- The index of row `r`, column `c` of the state: `r + 4c`, columns modulo 4 (R74, R203). -/
def stateIndex (r c : Nat) : Nat := r + 4 * (c % 4)

/-- `shift_rows(st)`: `out[r + 4c] = st[r + 4((c + r) mod 4)]` (R203). -/
def shiftRows (st : Block) : Block := Vector.ofFn fun i =>
  byteAt st (stateIndex (i.val % 4) (i.val / 4 + i.val % 4))

/-- `inv_shift_rows(st)`: `out[r + 4c] = st[r + 4((c - r) mod 4)]` (R204). -/
def invShiftRows (st : Block) : Block := Vector.ofFn fun i =>
  byteAt st (stateIndex (i.val % 4) (i.val / 4 + 4 - i.val % 4))

/-- Every column `c` replaced by the column whose row `r` is
`gf_mul(m0, a[r]) ^ gf_mul(m1, a[r+1]) ^ gf_mul(m2, a[r+2]) ^ gf_mul(m3, a[r+3])`, rows modulo 4: the product
with the matrix of first row `m0 m1 m2 m3`, each further row rotated right by one (R205, R206). -/
def mixBy (m0 m1 m2 m3 : Byte) (st : Block) : Block := Vector.ofFn fun i =>
  let r := i.val % 4
  let c := i.val / 4
  mul m0 (byteAt st (stateIndex r c)) ^^^
  mul m1 (byteAt st (stateIndex ((r + 1) % 4) c)) ^^^
  mul m2 (byteAt st (stateIndex ((r + 2) % 4) c)) ^^^
  mul m3 (byteAt st (stateIndex ((r + 3) % 4) c))

/-- `mix_columns(st)`: coefficients 2, 3, 1, 1 (R205). -/
def mixColumns (st : Block) : Block := mixBy 2 3 1 1 st

/-- `inv_mix_columns(st)`: coefficients 14, 11, 13, 9 (R206). -/
def invMixColumns (st : Block) : Block := mixBy 14 11 13 9 st

/-! ### The commands -/

/-- `AES.SBOX x` (R191). -/
def execAesSbox (x : Byte) (s : State) : Outcome := answer (sbox x) s

/-- `AES.ISBOX y` (R192). -/
def execAesIsbox (y : Byte) (s : State) : Outcome := answer (invSbox y) s

/-- The sixteen bytes at `bptr` become `st` and are written back: "`st <- MemRead(bptr, 16)`; transform;
`MemWrite(bptr, 16, st)`" (spec/44_aes_round.md, opening text). -/
def blockInPlace (f : Block → Block) (bptr : Addr) (s : State) : State :=
  let st := f (readBytes s bptr 16)
  respond .done (writeBytes { s with st := st } bptr st)

/-- `AES.SUBBYTES bptr` (R201). -/
def execAesSubBytes (bptr : Addr) (s : State) : Outcome := .next (blockInPlace subBytes bptr s)

/-- `AES.ISUBBYTES bptr` (R202). -/
def execAesIsubBytes (bptr : Addr) (s : State) : Outcome := .next (blockInPlace invSubBytes bptr s)

/-- `AES.SHIFTROWS bptr` (R203). -/
def execAesShiftRows (bptr : Addr) (s : State) : Outcome := .next (blockInPlace shiftRows bptr s)

/-- `AES.ISHIFTROWS bptr` (R204). -/
def execAesIshiftRows (bptr : Addr) (s : State) : Outcome := .next (blockInPlace invShiftRows bptr s)

/-- `AES.MIXCOLUMNS bptr` (R205). -/
def execAesMixColumns (bptr : Addr) (s : State) : Outcome := .next (blockInPlace mixColumns bptr s)

/-- `AES.IMIXCOLUMNS bptr` (R206). -/
def execAesImixColumns (bptr : Addr) (s : State) : Outcome := .next (blockInPlace invMixColumns bptr s)

/-- `AES.ADDROUNDKEY bptr, kptr`; an overlap of the two operands is refused (R88, R200). -/
def execAesAddRoundKey (bptr kptr : Addr) (s : State) : Outcome :=
  if overlaps bptr 16 kptr 16 then .refused .operandOverlap
  else .next (blockInPlace (fun st => addRoundKey st (readBytes s kptr 16)) bptr s)

end Sys2Proof.Machine
end

