-- ==== Sys2Proof/Machine/AesKeys.lean ====
section
/-! DEFINITION. The key schedule (spec/45_aes_keysched.md R220 to R227): the four steps as functions, each
statement using the values left by the statements before it, and their commands, which work in place. -/

namespace Sys2Proof.Machine

/-- "S-box substitution on the last word", rotated by one byte, with the constant added to the first byte
only: `k[0..3]` from `k[p..p+3]` (R223 with `p` = 12, R225 with `p` = 28). -/
def keyCore {m : Nat} (p : Nat) (c : Byte) (k : Bytes m) : Bytes m :=
  let k := xorByte k 0 (sbox (byteAt k (p + 1)) ^^^ c)
  let k := xorByte k 1 (sbox (byteAt k (p + 2)))
  let k := xorByte k 2 (sbox (byteAt k (p + 3)))
  xorByte k 3 (sbox (byteAt k p))

/-- One statement of the cascade: `k[i] <- k[i] ^ k[i - 4]`. -/
def cascadeByte {m : Nat} (k : Bytes m) (i : Nat) : Bytes m := xorByte k i (byteAt k (i - 4))

/-- The cascade over the indices of a list, in its order. -/
def cascade {m : Nat} (is : List Nat) (k : Bytes m) : Bytes m := is.foldl cascadeByte k

/-- One statement of the middle of a 256-bit step: `k[i] <- k[i] ^ S(k[i - 4])`. -/
def substByte {m : Nat} (k : Bytes m) (i : Nat) : Bytes m := xorByte k i (sbox (byteAt k (i - 4)))

/-- The middle of a 256-bit step over the indices of a list, in its order. -/
def substitute {m : Nat} (is : List Nat) (k : Bytes m) : Bytes m := is.foldl substByte k

/-- `ks128_fwd(k, c)` (R223). -/
def ks128Fwd (k : Block) (c : Byte) : Block :=
  cascade [4, 5, 6, 7, 8, 9, 10, 11, 12, 13, 14, 15] (keyCore 12 c k)

/-- `ks128_inv(k, c)` (R224). -/
def ks128Inv (k : Block) (c : Byte) : Block :=
  keyCore 12 c (cascade [15, 14, 13, 12, 11, 10, 9, 8, 7, 6, 5, 4] k)

/-- `ks256_fwd(k, c)` (R225). -/
def ks256Fwd (k : Key256) (c : Byte) : Key256 :=
  let k := keyCore 28 c k
  let k := cascade [4, 5, 6, 7, 8, 9, 10, 11, 12, 13, 14, 15] k
  let k := substitute [16, 17, 18, 19] k
  cascade [20, 21, 22, 23, 24, 25, 26, 27, 28, 29, 30, 31] k

/-- `ks256_inv(k, c)` (R226). -/
def ks256Inv (k : Key256) (c : Byte) : Key256 :=
  let k := cascade [31, 30, 29, 28, 27, 26, 25, 24, 23, 22, 21, 20] k
  let k := substitute [19, 18, 17, 16] k
  let k := cascade [15, 14, 13, 12, 11, 10, 9, 8, 7, 6, 5, 4] k
  keyCore 28 c k

/-- The 32-byte working key with its first sixteen bytes replaced: "a 128-bit operation uses `rk[0..15]`
only" (R41). -/
def withLow (rk : Key256) (k : Block) : Key256 :=
  Vector.ofFn fun i => if i.val < 16 then byteAt k i.val else byteAt rk i.val

/-! ### The commands -/

/-- A 128-bit key step in place; the key is loaded into `rk[0..15]` and the step's result is left there
(R41, R88; log entry 11). -/
def key128InPlace (f : Block → Block) (kptr : Addr) (s : State) : State :=
  let k := f (readBytes s kptr 16)
  respond .done (writeBytes { s with rk := withLow s.rk k } kptr k)

/-- A 256-bit key step in place (R41, R88; log entry 11). -/
def key256InPlace (f : Key256 → Key256) (kptr : Addr) (s : State) : State :=
  let k := f (readBytes s kptr 32)
  respond .done (writeBytes { s with rk := k } kptr k)

/-- `AES.KS128F kptr, c` (R223). -/
def execAesKs128f (kptr : Addr) (c : Byte) (s : State) : Outcome :=
  .next (key128InPlace (fun k => ks128Fwd k c) kptr s)

/-- `AES.KS128I kptr, c` (R224). -/
def execAesKs128i (kptr : Addr) (c : Byte) (s : State) : Outcome :=
  .next (key128InPlace (fun k => ks128Inv k c) kptr s)

/-- `AES.KS256F kptr, c` (R225). -/
def execAesKs256f (kptr : Addr) (c : Byte) (s : State) : Outcome :=
  .next (key256InPlace (fun k => ks256Fwd k c) kptr s)

/-- `AES.KS256I kptr, c` (R226). -/
def execAesKs256i (kptr : Addr) (c : Byte) (s : State) : Outcome :=
  .next (key256InPlace (fun k => ks256Inv k c) kptr s)

end Sys2Proof.Machine
end

