-- ==== Sys2Proof/Machine/AesBlock.lean ====
section
/-! DEFINITION. Block cipher orchestration (spec/46_aes_block.md R240 to R249): encryption, decryption and
the derivation of the decryption key, for both key sizes, as loops over the working registers, and the six
commands. -/

namespace Sys2Proof.Machine

/-- The working registers of a 128-bit operation: `st`, `rk[0..15]`, `rcon` (R40, R41, R42). -/
structure Work128 where
  st : Block
  rk : Block
  rcon : Byte
deriving DecidableEq, Repr

/-- The working registers of a 256-bit operation: `st`, `rk[0..31]`, `rcon` (R40, R41, R42). -/
structure Work256 where
  st : Block
  rk : Key256
  rcon : Byte
deriving DecidableEq, Repr

/-- The counts of a loop `for round in 1, 2, ..., k`. -/
def upTo (k : Nat) : List Nat := List.range' 1 k

/-- The counts of a loop `for round in k, ..., 2, 1`. -/
def downFrom (k : Nat) : List Nat := (List.range' 1 k).reverse

/-! ### 128-bit key -/

/-- The body of R240's loop. -/
def enc128Round (w : Work128) (round : Nat) : Work128 :=
  let st := shiftRows (subBytes (addRoundKey w.st w.rk))
  { st := if round = 10 then st else mixColumns st
    rk := ks128Fwd w.rk w.rcon
    rcon := mul2 w.rcon }

/-- `AES128.ENC` on a key and a block: the registers at the end; `st` is the ciphertext (R240). -/
def enc128 (key blk : Block) : Work128 :=
  let w := (upTo 10).foldl enc128Round { st := blk, rk := key, rcon := 0x01 }
  { w with st := addRoundKey w.st w.rk }

/-- The body of R241's loop. -/
def dec128Round (w : Work128) (round : Nat) : Work128 :=
  let rk := ks128Inv w.rk w.rcon
  let st := if round = 10 then w.st else invMixColumns w.st
  { st := addRoundKey (invSubBytes (invShiftRows st)) rk
    rk := rk
    rcon := div2 w.rcon }

/-- `AES128.DEC` on a decryption key and a block: the registers at the end; `st` is the plaintext (R241). -/
def dec128 (key blk : Block) : Work128 :=
  (downFrom 10).foldl dec128Round { st := addRoundKey blk key, rk := key, rcon := 0x36 }

/-- `k` forward 128-bit key steps from a working key and a round constant (R220, R242). -/
def steps128 : Nat → Block → Byte → Block × Byte
  | 0, k, c => (k, c)
  | n + 1, k, c => steps128 n (ks128Fwd k c) (mul2 c)

/-- `AES128.DERIVE` on a key: the last round key and the constant left (R242). -/
def derive128 (key : Block) : Block × Byte := steps128 10 key 0x01

/-! ### 256-bit key -/

/-- The body of R243's loop. -/
def enc256Round (w : Work256) (it : Nat) : Work256 :=
  let st := mixColumns (shiftRows (subBytes (addRoundKey w.st (slice w.rk 0 16))))
  let st := shiftRows (subBytes (addRoundKey st (slice w.rk 16 16)))
  { st := if it = 7 then st else mixColumns st
    rk := ks256Fwd w.rk w.rcon
    rcon := mul2 w.rcon }

/-- `AES256.ENC` on a key and a block: the registers at the end; `st` is the ciphertext (R243). -/
def enc256 (key : Key256) (blk : Block) : Work256 :=
  let w := (upTo 7).foldl enc256Round { st := blk, rk := key, rcon := 0x01 }
  { w with st := addRoundKey w.st (slice w.rk 0 16) }

/-- The body of R244's loop. -/
def dec256Round (w : Work256) (it : Nat) : Work256 :=
  let rk := ks256Inv w.rk w.rcon
  let st := if it = 7 then w.st else invMixColumns w.st
  let st := addRoundKey (invSubBytes (invShiftRows st)) (slice rk 16 16)
  let st := invSubBytes (invShiftRows (invMixColumns st))
  { st := addRoundKey st (slice rk 0 16)
    rk := rk
    rcon := div2 w.rcon }

/-- `AES256.DEC` on a decryption key and a block: the registers at the end; `st` is the plaintext (R244). -/
def dec256 (key : Key256) (blk : Block) : Work256 :=
  (downFrom 7).foldl dec256Round { st := addRoundKey blk (slice key 0 16), rk := key, rcon := 0x40 }

/-- `k` forward 256-bit key steps from a working key and a round constant (R220, R245). -/
def steps256 : Nat → Key256 → Byte → Key256 × Byte
  | 0, k, c => (k, c)
  | n + 1, k, c => steps256 n (ks256Fwd k c) (mul2 c)

/-- `AES256.DERIVE` on a key: key block 7 and the constant left (R245). -/
def derive256 (key : Key256) : Key256 × Byte := steps256 7 key 0x01

/-! ### The commands -/

/-- The end of a 128-bit block operation: the working registers hold what its loop left, `round` its last
count, and the block operand the result (R46; log entry 11). -/
def finish128 (w : Work128) (round : BitVec 4) (bptr : Addr) (s : State) : State :=
  respond .done (writeBytes
    { s with st := w.st, rk := withLow s.rk w.rk, rcon := w.rcon, round := round } bptr w.st)

/-- The end of a 256-bit block operation (R46; log entry 11). -/
def finish256 (w : Work256) (round : BitVec 4) (bptr : Addr) (s : State) : State :=
  respond .done (writeBytes
    { s with st := w.st, rk := w.rk, rcon := w.rcon, round := round } bptr w.st)

/-- The destination of a derivation may equal its key source exactly, and overlap it in no other way (R88). -/
def deriveOverlap (kptr dptr : Addr) (size : Nat) : Bool :=
  decide (kptr ≠ dptr) && overlaps kptr size dptr size

/-- `AES128.ENC kptr, bptr` (R240). -/
def execAes128Enc (kptr bptr : Addr) (s : State) : Outcome :=
  if overlaps kptr 16 bptr 16 then .refused .operandOverlap
  else .next (finish128 (enc128 (readBytes s kptr 16) (readBytes s bptr 16)) 10 bptr s)

/-- `AES128.DEC kptr, bptr` (R241). -/
def execAes128Dec (kptr bptr : Addr) (s : State) : Outcome :=
  if overlaps kptr 16 bptr 16 then .refused .operandOverlap
  else .next (finish128 (dec128 (readBytes s kptr 16) (readBytes s bptr 16)) 1 bptr s)

/-- `AES128.DERIVE kptr, dptr` (R242); `st` is not touched: "without touching any data block". -/
def execAes128Derive (kptr dptr : Addr) (s : State) : Outcome :=
  if deriveOverlap kptr dptr 16 then .refused .operandOverlap
  else
    let w := derive128 (readBytes s kptr 16)
    .next (respond .done (writeBytes
      { s with rk := withLow s.rk w.1, rcon := w.2, round := 10 } dptr w.1))

/-- `AES256.ENC kptr, bptr` (R243). -/
def execAes256Enc (kptr bptr : Addr) (s : State) : Outcome :=
  if overlaps kptr 32 bptr 16 then .refused .operandOverlap
  else .next (finish256 (enc256 (readBytes s kptr 32) (readBytes s bptr 16)) 7 bptr s)

/-- `AES256.DEC kptr, bptr` (R244). -/
def execAes256Dec (kptr bptr : Addr) (s : State) : Outcome :=
  if overlaps kptr 32 bptr 16 then .refused .operandOverlap
  else .next (finish256 (dec256 (readBytes s kptr 32) (readBytes s bptr 16)) 1 bptr s)

/-- `AES256.DERIVE kptr, dptr` (R245). -/
def execAes256Derive (kptr dptr : Addr) (s : State) : Outcome :=
  if deriveOverlap kptr dptr 32 then .refused .operandOverlap
  else
    let w := derive256 (readBytes s kptr 32)
    .next (respond .done (writeBytes { s with rk := w.1, rcon := w.2, round := 7 } dptr w.1))

end Sys2Proof.Machine
end

