-- ==== Sys2Proof/Machine/AesCtr.lean ====
section
/-! DEFINITION. The counter-mode fast path (spec/47_aes_ctr.md R260 to R267): the key expansion, encryption
under a schedule, the counter increment and the two commands. -/

namespace Sys2Proof.Machine

/-- `RK_0` to `RK_k` of a 128-bit key, in order of use (R227, R261). -/
def roundKeys : Nat → Block → Byte → List Block
  | 0, k, _ => [k]
  | n + 1, k, c => k :: roundKeys n (ks128Fwd k c) (mul2 c)

/-- The expanded schedule: `sched[16 i .. 16 i + 15] = RK_i` for i = 0..10 (R260, R261). -/
def expand128 (key : Block) : Schedule :=
  let ks := roundKeys 10 key 0x01
  Vector.ofFn fun i => byteAt (ks.getD (i.val / 16) key) (i.val % 16)

/-- The body of R262's loop. -/
def schedRound (sched : Schedule) (st : Block) (round : Nat) : Block :=
  let st := shiftRows (subBytes st)
  addRoundKey (if round = 10 then st else mixColumns st) (slice sched (16 * round) 16)

/-- `enc_sched(sched, blk)` (R262). -/
def encSched (sched : Schedule) (blk : Block) : Block :=
  (upTo 10).foldl (schedRound sched) (addRoundKey blk (slice sched 0 16))

/-- The increment from byte `i - 1` toward byte 0: add one, and go on to the next more significant byte
only where the byte wrapped to 0 (R264). -/
def ctrIncFrom : Nat → Block → Block
  | 0, ctr => ctr
  | i + 1, ctr =>
    let ctr' := setByte ctr i (byteAt ctr i + 1)
    if byteAt ctr' i ≠ 0 then ctr' else ctrIncFrom i ctr'

/-- `ctr_inc(ctr)` (R264). -/
def ctrInc (ctr : Block) : Block := ctrIncFrom 16 ctr

/-- The counter as a 16-byte big-endian integer: the sum over i of `ctr[i] * 256^(15-i)` (R75). -/
def ctrValue (ctr : Block) : Nat := ctr.toList.foldl (fun acc b => acc * 256 + b.toNat) 0

/-- One block of R263's loop, at the data address `d`: the registers `sched` and `ctr` hold the operands. -/
def ctrBlock (s : State) (d : Addr) : State :=
  let ks := encSched s.sched s.ctr
  writeBytes
    { s with st := ks, round := 10, ctr := ctrInc s.ctr, n := s.n - 1 }
    d (addRoundKey (readBytes s d 16) ks)

/-- R263's loop over `k` blocks from the data address `d`. -/
def ctrBlocks : Nat → Addr → State → State
  | 0, _, s => s
  | k + 1, d, s => ctrBlocks k (addrAdd d 16) (ctrBlock s d)

/-- `AES128.EXPAND kptr, sptr`; `kptr` may equal `sptr` exactly and overlap the 176 bytes in no other way
(R261; log entry 12). -/
def execAes128Expand (kptr sptr : Addr) (s : State) : Outcome :=
  if decide (kptr ≠ sptr) && overlaps kptr 16 sptr 176 then .refused .operandOverlap
  else
    let key := readBytes s kptr 16
    let w := derive128 key
    .next (respond .done (writeBytes
      { s with rk := withLow s.rk w.1, rcon := w.2, round := 10 } sptr (expand128 key)))

/-- The schedule, the counter and the data of `AES128.CTR` overlap one another (R88, R263). -/
def ctrOverlap (sptr cptr : Addr) (n : Count) (dptr : Addr) : Bool :=
  overlaps sptr 176 cptr 16 || overlaps sptr 176 dptr (16 * n.toNat) ||
  overlaps cptr 16 dptr (16 * n.toNat)

/-- The loop of `AES128.CTR` with its operands loaded (R263). -/
def ctrRun (sptr cptr : Addr) (n : Count) (dptr : Addr) (s : State) : State :=
  ctrBlocks n.toNat dptr
    { s with sched := readBytes s sptr 176, ctr := readBytes s cptr 16, n := n }

/-- `AES128.CTR sptr, cptr, n, dptr` (R263). -/
def execAes128Ctr (sptr cptr : Addr) (n : Count) (dptr : Addr) (s : State) : Outcome :=
  if ctrOverlap sptr cptr n dptr then .refused .operandOverlap
  else
    let s' := ctrRun sptr cptr n dptr s
    .next (respond .done (writeBytes s' cptr s'.ctr))

end Sys2Proof.Machine
end

