-- ==== Sys2Proof/Machine/TwiCommands.lean ====
section
/-! DEFINITION. The TWI unit's blocking operations (spec/40_twi_commands.md R130 to R139). A command's
meaning is its atomic part, parts (a) to (d); parts (e) to (g) are MAIN's polls (Machine/Ops.lean, `mainPoll`). -/

namespace Sys2Proof.Machine

/-- "A TWI command is accepted only in context MAIN and only while `tw_phase = IDLE`" (R136). -/
def twiAccepts (s : State) : Bool := decide (s.context = .main) && decide (s.twPhase = .idle)

/-- Parts (a) to (d) of a transaction: record the address, the length and the buffer, reset the result to
pending, request a START, wait for the result (R131). The command has handed nothing back yet. -/
def startTransaction (addr7 : BitVec 7) (rw : Bool) (length : Len) (data : Addr)
    (src : Bool) (imm : Byte) (s : State) : State :=
  act .start { s with
    twAddr := addressByte addr7 rw
    twRemaining := length
    twCursor := data
    twSrc := src
    twImm := if src then imm else s.twImm
    twResult := .pending
    twPhase := .waitResult
    respMain := none }

/-- `TWI.INIT` (R130). -/
def execTwiInit (s : State) : Outcome :=
  if !twiAccepts s then .refused .twiBusy
  else .next (respond .done (act .enable
    { s with twBitrate := Config.parameters.bitrateDiv, twOwnaddr := Config.parameters.ownAddr }))

/-- `TWI.WRITE addr7, len, ptr`: `transaction(addr7, 0, len, ptr, 0, -)` (R132). -/
def execTwiWrite (addr7 : BitVec 7) (len : Len) (ptr : Addr) (s : State) : Outcome :=
  if !twiAccepts s then .refused .twiBusy
  else .next (startTransaction addr7 false len ptr false 0 s)

/-- `TWI.WRITE1 addr7, byte`: `transaction(addr7, 0, 1, tw_cursor, 1, byte)` (R133). -/
def execTwiWrite1 (addr7 : BitVec 7) (byte : Byte) (s : State) : Outcome :=
  if !twiAccepts s then .refused .twiBusy
  else .next (startTransaction addr7 false 1 s.twCursor true byte s)

/-- `TWI.READ addr7, len, ptr`: precondition `len >= 1` (R137), then `transaction(addr7, 1, len, ptr, 0, -)`
(R134; the order of the two refusals: log entry 13). -/
def execTwiRead (addr7 : BitVec 7) (len : Len) (ptr : Addr) (s : State) : Outcome :=
  if len = 0 then .refused .readLengthZero
  else if !twiAccepts s then .refused .twiBusy
  else .next (startTransaction addr7 true len ptr false 0 s)

end Sys2Proof.Machine
end

