-- ==== Sys2Proof/Machine/TwiEvents.lean ====
section
/-! DEFINITION. The TWI unit's interrupt handler, one meaning per bus status (spec/41_twi_events.md R150 to
R163). Each is one atomic step of context IRQ; the rule is chosen by the status alone (R150, R325). -/

namespace Sys2Proof.Machine

/-- An event is admitted only while a transaction is in flight, else refused (R150). -/
def admitted (s : State) (rule : Outcome) : Outcome :=
  if inFlight s then rule else .refused .eventOutsideTransaction

/-- The handler's last write: `tw_result` (R81, R162). -/
def endTransaction (r : TwResult) (s : State) : State := { s with twResult := r }

/-- `action(ACT_STOP)`; `tw_result <- SUCCESS`. -/
def stopSuccess (s : State) : State := endTransaction .success (act .stop s)

/-- `action(ACT_NONE)`; `tw_result <- FAILURE` (R158, R159, R160). -/
def endFailure (s : State) : State := endTransaction .failure (act .none s)

/-- The byte to transmit: `tw_imm` where `tw_src` is 1, else the byte at the cursor (R26, R152). -/
def transmitByte (s : State) : Byte := if s.twSrc then s.twImm else readByte s s.twCursor

/-- The cursor advances and the count decrements: one byte has moved (R23, R24). -/
def countByte (s : State) : State :=
  { s with twCursor := addrAdd s.twCursor 1, twRemaining := s.twRemaining - 1 }

/-- "If bytes remain, load next byte and decrement remaining count; otherwise issue STOP and mark success"
(R152, R153). -/
def transmitNext (s : State) : State :=
  if s.twRemaining = 0 then stopSuccess s
  else act .continue_ (countByte { s with twData := transmitByte s })

/-- "If more bytes expected, enable hardware ACK generation for the next byte, else expect NACK on the
final byte": more than one byte is still to be stored (R156). -/
def acknowledgeNext (s : State) : State :=
  act (if 1 < s.twRemaining.toNat then .continueAck else .continue_) s

/-- Store the received byte at the cursor and count it (R155, R157). -/
def storeReceived (s : State) : State := countByte (writeByte s s.twCursor s.twData)

/-- A receive status at `tw_remaining` = 0 is refused: its store would fall outside the buffer (R155, R157). -/
def receive (s : State) (rest : State → State) : Outcome :=
  if s.twRemaining = 0 then .refused .readOverrun else .next (rest (storeReceived s))

/-- `EVT START`: load the target address byte into the data register (R151). -/
def execEvtStart (s : State) : Outcome :=
  admitted s (.next (act .continue_ { s with twData := s.twAddr }))

/-- `EVT MT_SLA_ACK` (R152). -/
def execEvtMtSlaAck (s : State) : Outcome := admitted s (.next (transmitNext s))

/-- `EVT MT_DATA_ACK` performs exactly the rule of R152 (R153). -/
def execEvtMtDataAck (s : State) : Outcome := admitted s (.next (transmitNext s))

/-- `EVT MR_DATA_ACK`: store, advance, decrement, then as `MR_SLA_ACK` (R155). -/
def execEvtMrDataAck (s : State) : Outcome := admitted s (receive s acknowledgeNext)

/-- `EVT MR_SLA_ACK` (R156). -/
def execEvtMrSlaAck (s : State) : Outcome := admitted s (.next (acknowledgeNext s))

/-- `EVT MR_DATA_NACK`: store the last byte, issue STOP, mark success (R157). -/
def execEvtMrDataNack (s : State) : Outcome := admitted s (receive s stopSuccess)

/-- `EVT MT_DATA_NACK`: issue STOP, mark success (R154, 90_conflicts.md C3). -/
def execEvtMtDataNack (s : State) : Outcome := admitted s (.next (stopSuccess s))

/-- `EVT MT_SLA_NACK`: mark failure, no control write (R158). -/
def execEvtMtSlaNack (s : State) : Outcome := admitted s (.next (endFailure s))

/-- `EVT MR_SLA_NACK`: exactly the rule of R158 (R159). -/
def execEvtMrSlaNack (s : State) : Outcome := admitted s (.next (endFailure s))

/-- `EVT OTHER`: mark failure, no control write, no STOP (R160). -/
def execEvtOther (s : State) : Outcome := admitted s (.next (endFailure s))

end Sys2Proof.Machine
end

