-- ==== Sys2Proof/Machine/Dispatch.lean ====
section
/-! DEFINITION. One arm per constructor of `Instr`, each one direct call of its meaning. -/

namespace Sys2Proof.Machine

def exec (i : Instr) (s : State) : Host.Outcome State Fault Refusal :=
  match i with
  -- TWI unit, commands
  | .twiInit => Sys2Proof.Machine.execTwiInit s
  | .twiWrite addr7 len ptr => Sys2Proof.Machine.execTwiWrite addr7 len ptr s
  | .twiWrite1 addr7 byte => Sys2Proof.Machine.execTwiWrite1 addr7 byte s
  | .twiRead addr7 len ptr => Sys2Proof.Machine.execTwiRead addr7 len ptr s
  -- AES unit, block operations and the fast path
  | .aes128Enc kptr bptr => Sys2Proof.Machine.execAes128Enc kptr bptr s
  | .aes128Dec kptr bptr => Sys2Proof.Machine.execAes128Dec kptr bptr s
  | .aes128Derive kptr dptr => Sys2Proof.Machine.execAes128Derive kptr dptr s
  | .aes256Enc kptr bptr => Sys2Proof.Machine.execAes256Enc kptr bptr s
  | .aes256Dec kptr bptr => Sys2Proof.Machine.execAes256Dec kptr bptr s
  | .aes256Derive kptr dptr => Sys2Proof.Machine.execAes256Derive kptr dptr s
  | .aes128Expand kptr sptr => Sys2Proof.Machine.execAes128Expand kptr sptr s
  | .aes128Ctr sptr cptr n dptr => Sys2Proof.Machine.execAes128Ctr sptr cptr n dptr s
  -- AES unit, S-box, round and key-step commands
  | .aesSbox byte => Sys2Proof.Machine.execAesSbox byte s
  | .aesIsbox byte => Sys2Proof.Machine.execAesIsbox byte s
  | .aesSubBytes bptr => Sys2Proof.Machine.execAesSubBytes bptr s
  | .aesIsubBytes bptr => Sys2Proof.Machine.execAesIsubBytes bptr s
  | .aesShiftRows bptr => Sys2Proof.Machine.execAesShiftRows bptr s
  | .aesIshiftRows bptr => Sys2Proof.Machine.execAesIshiftRows bptr s
  | .aesMixColumns bptr => Sys2Proof.Machine.execAesMixColumns bptr s
  | .aesImixColumns bptr => Sys2Proof.Machine.execAesImixColumns bptr s
  | .aesAddRoundKey bptr kptr => Sys2Proof.Machine.execAesAddRoundKey bptr kptr s
  | .aesKs128f kptr byte => Sys2Proof.Machine.execAesKs128f kptr byte s
  | .aesKs128i kptr byte => Sys2Proof.Machine.execAesKs128i kptr byte s
  | .aesKs256f kptr byte => Sys2Proof.Machine.execAesKs256f kptr byte s
  | .aesKs256i kptr byte => Sys2Proof.Machine.execAesKs256i kptr byte s
  -- GF unit
  | .gfMul2 byte => Sys2Proof.Machine.execGfMul2 byte s
  | .gfDiv2 byte => Sys2Proof.Machine.execGfDiv2 byte s
  | .gfLog byte => Sys2Proof.Machine.execGfLog byte s
  | .gfAlog byte => Sys2Proof.Machine.execGfAlog byte s
  | .gfInv byte => Sys2Proof.Machine.execGfInv byte s
  | .gfMul byte byte2 => Sys2Proof.Machine.execGfMul byte byte2 s
  -- TWI unit, events; the bits a mask removes are ignored (R31)
  | .evtStart _ => Sys2Proof.Machine.execEvtStart s
  | .evtMtSlaAck _ => Sys2Proof.Machine.execEvtMtSlaAck s
  | .evtMtDataAck _ => Sys2Proof.Machine.execEvtMtDataAck s
  | .evtMrDataAck _ => Sys2Proof.Machine.execEvtMrDataAck s
  | .evtMrSlaAck _ => Sys2Proof.Machine.execEvtMrSlaAck s
  | .evtMrDataNack _ => Sys2Proof.Machine.execEvtMrDataNack s
  | .evtMtDataNack _ => Sys2Proof.Machine.execEvtMtDataNack s
  | .evtMtSlaNack _ => Sys2Proof.Machine.execEvtMtSlaNack s
  | .evtMrSlaNack _ => Sys2Proof.Machine.execEvtMrSlaNack s
  | .evtOther _ => Sys2Proof.Machine.execEvtOther s

end Sys2Proof.Machine
end

