-- ==== Sys2Proof/Machine/Step.lean ====
section
/-! DEFINITION. One step of the machine (spec/20_memory.md R80, spec/60_exceptions.md R284, R285,
spec/70_reset_and_hazards.md R311, R331): a reset where one comes next, else the handler where an interrupt is
enabled and pending (a command IRQ sends comes before its rule), else the next move of the script, else a poll of
MAIN. -/

namespace Sys2Proof.Machine

/-- One step. "The handler runs when the interrupt is enabled and pending and MAIN is between two of its
steps" (R284); it runs to completion in this step (R80, R150). Otherwise the script says which agent moves;
with no move to come MAIN polls, and an idle block does nothing until a command arrives (R310). -/
def step (s : State) : Host.Outcome State Fault Refusal :=
  if powerFails s then .next (restart s)
  else if handlerRuns s then
    mapNext leaveContext (exec (decodeEvt s.twStatus) (enterContext .irq s))
  else
    match s.script with
    | [] => .next (mainPoll s)
    | .poll :: moves => .next (mainPoll { s with script := moves })
    | .stopComplete :: moves => .next (periphStopComplete { s with script := moves })
    | .store a b :: moves => .next (callerStore a b { s with script := moves })
    | .powerCycle :: _ => .next (restart s)
    | .raise status data :: moves => periphRaise status data { s with script := moves }
    | .command ctx bytes :: moves =>
      match decodeCmd bytes with
      | .error e => badRequest e
      | .ok i => sentBy ctx i s (mapNext leaveContext (exec i (enterContext ctx { s with script := moves })))

/-- The state with a word of the opcode table placed where `step` takes its next request (log entry 7). -/
def State.withFetchWord (s : State) (nbits w : Nat) : State := placeTableWord nbits w s

end Sys2Proof.Machine
end

