-- ==== Sys2Proof/Safety.lean ====
section
/-! DEFINITION. What counts as a safe run, in the terms the statements use: the invariant of the machine
between two steps, the frames of an instruction, and the few functions the rules of spec/ are stated with. -/

namespace Sys2Proof.Machine

/-- What holds between any two steps of a run: the memory keeps its canonical form, the unused bits of
`TW_CTRL` stay as written (R33), MAIN is the context that goes on (R287), the interrupt is enabled while a
transaction is executing (R36, R284), an event is pending only for a transaction in flight (R296), a requested
STOP belongs to a transaction that ended in success and is not yet back to idle (R28, R163), and MAIN is in
part (f) only after a definite result (R131). -/
structure Inv (s : State) : Prop where
  memory : Memory.wf s.buf = true
  unusedBits : ctrlUnusedClear s.twCtrl = true
  between : s.context = .main
  enabled : s.twPhase ≠ .idle → ctrlEnSet s.twCtrl = true ∧ ctrlIeSet s.twCtrl = true
  pendingEvent : ctrlIntSet s.twCtrl = true → inFlight s = true
  stopRequest : ctrlStoSet s.twCtrl = true → s.twPhase ≠ .idle ∧ s.twResult = .success
  definite : s.twPhase = .waitStop → s.twResult ≠ .pending

/-- "`TWI.INIT` was executed since reset", the launch premise of R139 and R315 (1), as the state shows it: the divisor
and the own address are those that `TWI.INIT`, and nothing else, writes, and the interrupt is enabled (R130; log
entry 21). No command checks it (R139). -/
def Initialised (s : State) : Prop :=
  s.twBitrate = Config.parameters.bitrateDiv ∧ s.twOwnaddr = Config.parameters.ownAddr ∧
  ctrlEnSet s.twCtrl = true ∧ ctrlIeSet s.twCtrl = true

/-- No agent is still to write one of the `n` bytes from `base` (R83, R315 (4)). -/
def NoForeignStore (base : Addr) (n : Nat) (moves : List Move) : Prop :=
  ∀ a b, Move.store a b ∈ moves → overlaps base n a 1 = false

/-- R315's launch premises for an operation on the `n` bytes from `base`. The second and the fifth hold of this model
by construction: `step` delivers an enabled pending interrupt (log entry 16) and `Config.parameters` gives
`BITRATE_DIV` and `OWN_ADDR` a value (log entry 1). No command checks any of them (log entry 21). -/
structure LaunchPremises (s : State) (base : Addr) (n : Nat) : Prop where
  /-- (1) `TWI.INIT` was executed since reset. -/
  initialised : Initialised s
  /-- (3) The buffer is allocated: every address of `BUF` exists (log entry 10), so it is as soon as it fits. -/
  allocated : n ≤ 2 ^ Config.parameters.ptrW
  /-- (4) "No other agent writes the buffers of an operation in progress." -/
  undisturbed : NoForeignStore base n s.script

/-- The `n` bytes from `base` hold `v` after, and every other byte of `BUF` reads as before. -/
def Stored {n : Nat} (s t : State) (base : Addr) (v : Bytes n) : Prop :=
  (∀ i, i < n → readByte t (addrAdd base i) = byteAt v i) ∧
  (∀ a : Addr, n ≤ (a - base).toNat → readByte t a = readByte s a)

/-- Every byte of `BUF` reads as before. -/
def SameMemory (s t : State) : Prop := ∀ a : Addr, readByte t a = readByte s a

/-- The transaction record and `tw_phase` are the same (R22 to R27). -/
def SameRecord (s t : State) : Prop :=
  t.twAddr = s.twAddr ∧ t.twRemaining = s.twRemaining ∧ t.twCursor = s.twCursor ∧
  t.twResult = s.twResult ∧ t.twImm = s.twImm ∧ t.twSrc = s.twSrc ∧ t.twPhase = s.twPhase

/-- The peripheral's registers are the same (R30 to R35). -/
def SamePeripheral (s t : State) : Prop :=
  t.twStatus = s.twStatus ∧ t.twData = s.twData ∧ t.twCtrl = s.twCtrl ∧
  t.twBitrate = s.twBitrate ∧ t.twOwnaddr = s.twOwnaddr

/-- The working registers of the AES unit are the same (R40 to R44). -/
def SameWorking (s t : State) : Prop :=
  t.st = s.st ∧ t.rk = s.rk ∧ t.rcon = s.rcon ∧ t.round = s.round ∧ t.ctr = s.ctr ∧
  t.sched = s.sched ∧ t.n = s.n

/-- `t` with the memory and the working registers of the AES unit taken from `s`: what an AES command may
not change is compared through it (R46, R248). -/
def withWorkingOf (s t : State) : State :=
  { t with
    buf := s.buf, st := s.st, rk := s.rk, rcon := s.rcon, round := s.round
    ctr := s.ctr, sched := s.sched, n := s.n }

/-- The command only answers a value: a function of its operands (R47, R102, R191, R192). -/
def answersOnly : Instr → Bool
  | .aesSbox _ => true
  | .aesIsbox _ => true
  | .gfMul2 _ => true
  | .gfDiv2 _ => true
  | .gfLog _ => true
  | .gfAlog _ => true
  | .gfInv _ => true
  | .gfMul _ _ => true
  | _ => false

/-- The request is an event (R100). -/
def isEvent (i : Instr) : Bool := decide ((encode i).1 = .evt)

/-- The first byte of a request's encoding: the opcode of a command (R101, R109). -/
def opcode (i : Instr) : Option Byte := (encode i).2.head?

/-- `ctr_inc` applied `k` times: `counter_k` (R266). -/
def counterAfter : Nat → Block → Block
  | 0, c => c
  | k + 1, c => counterAfter k (ctrInc c)

/-- The round constant of forward step `j + 1`: 1 doubled `j` times (R220). -/
def rconAt (j : Nat) : Byte := mul2Pow j 1

/-- Key block `j` of a 128-bit key, which is round key `RK_j` (R227). -/
def keyBlock128 : Nat → Block → Block
  | 0, k => k
  | j + 1, k => ks128Fwd (keyBlock128 j k) (rconAt j)

/-- Key block `j` of a 256-bit key (R227). -/
def keyBlock256 : Nat → Key256 → Key256
  | 0, k => k
  | j + 1, k => ks256Fwd (keyBlock256 j k) (rconAt j)

/-- Round key `RK_r` of a 256-bit key (R227). -/
def roundKey256 (key : Key256) (r : Nat) : Block := slice (keyBlock256 (r / 2) key) (16 * (r % 2)) 16

/-- The cipher with `Nr` = 14 over its round keys: "rounds 1 to 13 full, round 14 without MixColumns" (R243). -/
def cipher256 (key : Key256) (blk : Block) : Block :=
  (upTo 14).foldl (fun st r =>
      let st := shiftRows (subBytes st)
      addRoundKey (if r = 14 then st else mixColumns st) (roundKey256 key r))
    (addRoundKey blk (roundKey256 key 0))

/-- A command that works in place on the sixteen bytes at `p`: it completes in every canonical memory, the bytes
become `f` of what they were, and nothing else changes but the answer and the working register `st`, whose value
after is left open here (spec/44_aes_round.md, opening text; R46). -/
def BlockCommand (i : Instr) (p : Addr) (f : Block → Block) : Prop :=
  ∀ s : State, Memory.wf s.buf = true → ∃ t, exec i s = .next t ∧
    Stored s t p (f (readBytes s p 16)) ∧ { t with buf := s.buf, st := s.st } = respond .done s

/-- The sixteen bytes of a hex string, first byte first (R14, R74). -/
def blockOf (x : BitVec 128) : Block :=
  Vector.ofFn fun i => x.extractLsb' (8 * (15 - i.val)) 8

end Sys2Proof.Machine
end

