-- ==== Sys2Proof/Certificates/Slice0/Obligations.lean ====
section
/-! DEFINITION. The statements about lillib CORE, each from the rules of spec/ its docstring names. -/

open Sys2Proof Sys2Proof.Machine

/-! ### Encoding -/

/-- Request words written out from R105, R107, R108 and R109 decode to the requests they stand for. The byte
serialisation of the operand fields is the model's (log entry 5). -/
def Obligations.WrittenOutWordsDecode : Prop :=
  decode .cmd [0x00] = .ok .twiInit ∧
  decode .cmd [0x01, 0x50, 0x02, 0x00, 0x01] = .ok (.twiWrite 0x50 2 0x0100) ∧
  decode .cmd [0x02, 0x3C, 0xAF] = .ok (.twiWrite1 0x3C 0xAF) ∧
  decode .cmd [0x03, 0x68, 0x01, 0x00, 0x02] = .ok (.twiRead 0x68 1 0x0200) ∧
  decode .cmd [0x40, 0x00, 0x03, 0x20, 0x03] = .ok (.aes128Enc 0x0300 0x0320) ∧
  decode .cmd [0x46, 0x00, 0x04, 0x20, 0x04] = .ok (.aes256Derive 0x0400 0x0420) ∧
  decode .cmd [0x49, 0x00, 0x05, 0xB0, 0x05, 0x02, 0x00, 0x20, 0x06] =
    .ok (.aes128Ctr 0x0500 0x05B0 2 0x0620) ∧
  decode .cmd [0x50, 0x53] = .ok (.aesSbox 0x53) ∧
  decode .cmd [0x5C, 0x34, 0x12, 0x40] = .ok (.aesKs256i 0x1234 0x40) ∧
  decode .cmd [0x85, 0x57, 0x83] = .ok (.gfMul 0x57 0x83) ∧
  decode .evt [0x08] = .ok (.evtStart 0) ∧
  decode .evt [0x1A] = .ok (.evtMtSlaAck 2) ∧
  decode .evt [0x58] = .ok (.evtMrDataNack 0) ∧
  decode .evt [0x38] = .ok (.evtOther 0x38)

/-- Decoding the encoding of a well-formed request gives the request back: no bit of an operand is dropped
(R101 to R109; the byte serialisation is the model's, log entry 5). -/
def Obligations.DecodeOfEncode : Prop :=
  ∀ i : Instr, WellFormed i = true → decode (encode i).1 (encode i).2 = .ok i

/-- A byte string has at most one reading, and only well-formed requests are read: what decodes is the
encoding of what it decodes to (R101, R113; the byte serialisation is the model's, log entry 5). -/
def Obligations.EncodeOfDecode : Prop :=
  ∀ (f : Format) (bytes : List Byte) (i : Instr),
    decode f bytes = .ok i → encode i = (f, bytes) ∧ WellFormed i = true

/-- R110: an opcode byte outside the table of R109, or of a key size or a fast path that is configured out,
is reserved; in the model's configuration the machine answers `refuse ReservedOpcode`. -/
def Obligations.ReservedOpcodesAreRefused : Prop :=
  (∀ (b : Build) (op : Byte) (rest : List Byte),
    (op ∉ ([0x00, 0x01, 0x02, 0x03, 0x40, 0x41, 0x42, 0x44, 0x45, 0x46, 0x48, 0x49, 0x50, 0x51, 0x52, 0x53,
        0x54, 0x55, 0x56, 0x57, 0x58, 0x59, 0x5A, 0x5B, 0x5C, 0x80, 0x81, 0x82, 0x83, 0x84, 0x85] : List Byte) ∨
      (b.keys128 = false ∧ op ∈ ([0x40, 0x41, 0x42, 0x59, 0x5A] : List Byte)) ∨
      (b.keys256 = false ∧ op ∈ ([0x44, 0x45, 0x46, 0x5B, 0x5C] : List Byte)) ∨
      (b.fastPath = false ∧ op ∈ ([0x48, 0x49] : List Byte))) →
    decodeCmdIn b (op :: rest) = .error (.reservedOpcode op)) ∧
  (∀ (s : State) (c : Context) (op : Byte) (rest : List Byte) (moves : List Move),
    irqReady s = false → s.script = .command c (op :: rest) :: moves →
    op ∉ ([0x00, 0x01, 0x02, 0x03, 0x40, 0x41, 0x42, 0x44, 0x45, 0x46, 0x48, 0x49, 0x50, 0x51, 0x52, 0x53,
        0x54, 0x55, 0x56, 0x57, 0x58, 0x59, 0x5A, 0x5B, 0x5C, 0x80, 0x81, 0x82, 0x83, 0x84, 0x85] : List Byte) →
    step s = .refused (.reservedOpcode op))

/-- R107, R108: the status name is the one whose code equals `TW_STATUS & STATUS_MASK`, and `OTHER` if none
does. The codes and the mask are the spec's defaults (log entry 14). -/
def Obligations.StatusSelectsTheName : Prop :=
  ∀ b : Byte, decodeEvt b =
    if b &&& 0xF8 = 0x08 then .evtStart (b &&& 0x07)
    else if b &&& 0xF8 = 0x18 then .evtMtSlaAck (b &&& 0x07)
    else if b &&& 0xF8 = 0x20 then .evtMtSlaNack (b &&& 0x07)
    else if b &&& 0xF8 = 0x28 then .evtMtDataAck (b &&& 0x07)
    else if b &&& 0xF8 = 0x30 then .evtMtDataNack (b &&& 0x07)
    else if b &&& 0xF8 = 0x40 then .evtMrSlaAck (b &&& 0x07)
    else if b &&& 0xF8 = 0x48 then .evtMrSlaNack (b &&& 0x07)
    else if b &&& 0xF8 = 0x50 then .evtMrDataAck (b &&& 0x07)
    else if b &&& 0xF8 = 0x58 then .evtMrDataNack (b &&& 0x07)
    else .evtOther b

/-! ### Steps, reset, the invariant -/

/-- A step runs the decoded command: with a command next that its context can send, the step is `exec` of the
instruction its bytes decode to, in that context, with the command taken off the script; only the context goes
back to MAIN around it (R100, R289; the script is the model's, log entry 6). MAIN sends a command when no interrupt is
to be taken first, a TWI command at any time (R136 answers it) and another one while it is not blocked; IRQ sends one
while the interrupt is enabled and pending. Elsewhere there is no such step and the machine stops (log entry 17). -/
def Obligations.StepRunsTheCommand : Prop :=
  ∀ (s : State) (c : Context) (bytes : List Byte) (moves : List Move) (i : Instr),
    s.script = .command c bytes :: moves → decodeCmd bytes = .ok i →
    ((c = .main ∧ irqReady s = false ∧ (s.twPhase = .idle ∨ isTwiCommand i = true)) ∨
        (c = .irq ∧ irqReady s = true) →
      step s = mapNext (fun t => { t with context := .main })
        (exec i { s with script := moves, context := c })) ∧
    (c = .main → irqReady s = false → s.twPhase ≠ .idle → isTwiCommand i = false →
      step s = .fault .mainBlocked) ∧
    (c = .irq → irqReady s = false → step s = .fault .outsideHandler)

/-- A step runs the delivered event: with the interrupt enabled and pending (R284), the step is `exec` of the event
`TW_STATUS` decodes to, in context IRQ; only the context goes back to MAIN around it (R286, R287). That the handler
runs at this very step whatever agent's move is next is the model's choice (log entry 16; R331 leaves it open); a
reset (log entry 3) and a command IRQ itself sends (log entry 17) come before it. -/
def Obligations.StepRunsTheEvent : Prop :=
  ∀ s : State,
    s.twCtrl.getLsbD 7 = true → s.twCtrl.getLsbD 2 = true → s.twCtrl.getLsbD 0 = true →
    (∀ moves, s.script ≠ .powerCycle :: moves) → (∀ bytes moves, s.script ≠ .command .irq bytes :: moves) →
    step s = mapNext (fun t => { t with context := .main })
      (exec (decodeEvt s.twStatus) { s with context := .irq })

/-- R131 (e), (f), (g), R135, R138: while MAIN waits a poll changes no state; part (e) ends when the result is
no longer pending; part (f) ends when `TW_CTRL.STO` reads 0, and MAIN returns `tw_result`, a zero byte exactly
for `SUCCESS`; an idle block does nothing until a request arrives (R310). It holds of a poll that is the next move of
the script and of the poll where no move is left (log entry 6). -/
def Obligations.MainPollsUntilTheResultAndTheStop : Prop :=
  ∀ s u : State, irqReady s = false →
    (s.script = [] ∧ u = s ∨ ∃ moves, s.script = .poll :: moves ∧ u = { s with script := moves }) →
    (s.twPhase = .idle → step s = .next u) ∧
    (s.twPhase = .waitResult → s.twResult = .pending → step s = .next u) ∧
    (s.twPhase = .waitResult → s.twResult ≠ .pending → step s = .next { u with twPhase := .waitStop }) ∧
    (s.twPhase = .waitStop → s.twCtrl.getLsbD 4 = true → step s = .next u) ∧
    (s.twPhase = .waitStop → s.twCtrl.getLsbD 4 = false →
      step s = .next { u with twPhase := .idle, respMain := some (.ret s.twResult) } ∧
      ((Response.ret s.twResult).byte = some 0 ↔ s.twResult = .success))

/-- R291, R293, R296: PERIPH raises an event, with any status and any data byte, only while a transaction is
in flight and no event is pending; its stop-complete step clears `TW_CTRL.STO` and changes nothing else. -/
def Obligations.PeripheralMoves : Prop :=
  ∀ (s : State) (moves : List Move), irqReady s = false →
    (∀ status data : Byte, s.script = .raise status data :: moves →
      (s.twPhase = .waitResult → s.twResult = .pending → s.twCtrl.getLsbD 7 = false →
        ∃ t, step s = .next t ∧ t = { s with
            script := moves, twStatus := status, twData := data, twCtrl := t.twCtrl } ∧
          t.twCtrl.getLsbD 7 = true ∧
          ∀ i, i < 7 → t.twCtrl.getLsbD i = s.twCtrl.getLsbD i) ∧
      (s.twPhase = .waitResult → s.twResult = .pending → s.twCtrl.getLsbD 7 = true →
        step s = .fault .eventStillPending) ∧
      (¬(s.twPhase = .waitResult ∧ s.twResult = .pending) →
        step s = .refused .eventOutsideTransaction)) ∧
    (s.script = .stopComplete :: moves →
      ∃ t, step s = .next t ∧ t = { s with script := moves, twCtrl := t.twCtrl } ∧
        t.twCtrl.getLsbD 4 = false ∧
        ∀ i, i < 8 → i ≠ 4 → t.twCtrl.getLsbD i = s.twCtrl.getLsbD i)

/-- R50, R51, R53, R310: after reset `tw_phase` is `IDLE`, the six named bits of `TW_CTRL` are 0, and so the TWI
interrupt is disabled; "the block does nothing after reset until a command arrives", and none is to come, the script
being empty at reset (log entry 3). -/
def Obligations.ResetLeavesTheUnitIdle : Prop :=
  State.reset.twPhase = .idle ∧
  ctrlIntSet State.reset.twCtrl = false ∧ ctrlEaSet State.reset.twCtrl = false ∧
  ctrlStaSet State.reset.twCtrl = false ∧ ctrlStoSet State.reset.twCtrl = false ∧
  ctrlEnSet State.reset.twCtrl = false ∧ ctrlIeSet State.reset.twCtrl = false ∧
  irqReady State.reset = false ∧ step State.reset = .next State.reset

/-- R310, R311: a reset at any moment, a transaction in flight or not, leaves the state as after reset and the moves
that follow it; "nothing persists across power cycles". That the memory is lost with the rest is the model's
reading (log entry 3). -/
def Obligations.ResetAtAnyMoment : Prop :=
  ∀ (s : State) (moves : List Move), s.script = .powerCycle :: moves →
    step s = .next { State.reset with script := moves }

/-- R70: a byte the caller writes into `BUF` between two steps of the block reads back, and nothing else changes. -/
def Obligations.CallerWritesItsMemory : Prop :=
  ∀ (s : State) (a : Addr) (b : Byte) (moves : List Move), Memory.wf s.buf = true → irqReady s = false →
    s.script = .store a b :: moves →
    ∃ t, step s = .next t ∧ t = { s with script := moves, buf := t.buf } ∧ readByte t a = b ∧
      ∀ x, x ≠ a → readByte t x = readByte s x

/-- The invariant holds after reset. -/
def Obligations.ResetMeetsTheInvariant : Prop := Inv State.reset

/-- Every step keeps the invariant: the memory's canonical form, MAIN between steps, the interrupt enabled
during a transaction, an event pending only in flight (R296), a STOP request only after success and never
while idle (R28, R163), a definite result in part (f) (R131). -/
def Obligations.EveryStepKeepsTheInvariant : Prop :=
  ∀ s t : State, Inv s → step s = .next t → Inv t

/-- R22: `tw_addr` is "immutable during the transaction": no step of any agent changes it while `tw_phase` is
not `IDLE`; a reset, which ends the transaction (R311), is no such step. -/
def Obligations.AddressIsImmutableInFlight : Prop :=
  ∀ s t : State, s.twPhase ≠ .idle → (∀ moves, s.script ≠ .powerCycle :: moves) → step s = .next t →
    t.twAddr = s.twAddr

/-- R46, R47, R248: an AES or GF command touches no register of the TWI unit or of the peripheral, a GF command
and an S-box command write nothing at all but their answer (whatever the state: memory, working registers and all
else as before), and no TWI command and no event touches a working
register of the AES unit; TWI commands write no byte of `BUF` (R132, R133, R134). -/
def Obligations.UnitsShareNoRegister : Prop :=
  ∀ (i : Instr) (s t : State), exec i s = .next t →
    (isEvent i = false → isTwiCommand i = false → SameRecord s t ∧ SamePeripheral s t) ∧
    (answersOnly i = true → ∃ v, t = respond (.val v) s) ∧
    (isEvent i = true ∨ isTwiCommand i = true → SameWorking s t) ∧
    (isTwiCommand i = true → t.buf = s.buf) ∧
    t.context = s.context ∧ t.script = s.script

/-! ### TWI commands -/

/-- R130: `TWI.INIT` writes the divisor, the own address and the control register (`EN` and `IE` 1; `EA`, `STA`,
`STO` 0; `INT` as it was: it "does not acknowledge an event") and nothing else but its completion; executing it
twice leaves the state of once; it is refused unless MAIN is idle (R136). The launch premise "`TWI.INIT` was executed
since reset" (R139, R315; log entry 21) holds after it and after every further step but a reset. -/
def Obligations.InitConfiguresThePeripheral : Prop :=
  ∀ s : State,
    (s.context = .main → s.twPhase = .idle →
      ∃ t, exec .twiInit s = .next t ∧
        t = { s with
          twBitrate := Config.parameters.bitrateDiv, twOwnaddr := Config.parameters.ownAddr, twCtrl := t.twCtrl
          respMain := some .done } ∧
        ctrlEnSet t.twCtrl = true ∧ ctrlIeSet t.twCtrl = true ∧ ctrlEaSet t.twCtrl = false ∧
        ctrlStaSet t.twCtrl = false ∧ ctrlStoSet t.twCtrl = false ∧
        ctrlIntSet t.twCtrl = ctrlIntSet s.twCtrl ∧ exec .twiInit t = .next t ∧ Initialised t) ∧
    (¬(s.context = .main ∧ s.twPhase = .idle) → exec .twiInit s = .refused .twiBusy) ∧
    (∀ t : State, Initialised s → (∀ moves, s.script ≠ .powerCycle :: moves) → step s = .next t →
      Initialised t)

/-- Parts (a) to (d) of R131, for `TWI.WRITE`, `TWI.WRITE1` and `TWI.READ` (R132, R133, R134, R105): the address
byte, the count, the cursor, the source of the bytes, the pending result, the START request with `INT`
acknowledged, the phase; nothing else changes, and nothing has been handed back yet. -/
def Obligations.TransactionsStart : Prop :=
  ∀ (s : State) (addr7 : BitVec 7) (len : Len) (ptr : Addr) (byte : Byte),
    s.context = .main → s.twPhase = .idle →
    (exec (.twiWrite addr7 len ptr) s = .next { s with
      twAddr := BitVec.ofNat 8 (2 * addr7.toNat), twRemaining := len, twCursor := ptr, twSrc := false
      twResult := .pending, twCtrl := 0x25, twPhase := .waitResult, respMain := none }) ∧
    (exec (.twiWrite1 addr7 byte) s = .next { s with
      twAddr := BitVec.ofNat 8 (2 * addr7.toNat), twRemaining := 1, twSrc := true, twImm := byte
      twResult := .pending, twCtrl := 0x25, twPhase := .waitResult, respMain := none }) ∧
    (len ≠ 0 → exec (.twiRead addr7 len ptr) s = .next { s with
      twAddr := BitVec.ofNat 8 (2 * addr7.toNat + 1), twRemaining := len, twCursor := ptr, twSrc := false
      twResult := .pending, twCtrl := 0x25, twPhase := .waitResult, respMain := none })

/-- R136: a TWI command outside context MAIN, or while `tw_phase` is not `IDLE`, is refused with `TwiBusy`. -/
def Obligations.BusyUnitRefusesCommands : Prop :=
  ∀ (s : State) (addr7 : BitVec 7) (len : Len) (ptr : Addr) (byte : Byte),
    s.context ≠ .main ∨ s.twPhase ≠ .idle →
    exec .twiInit s = .refused .twiBusy ∧
    exec (.twiWrite addr7 len ptr) s = .refused .twiBusy ∧
    exec (.twiWrite1 addr7 byte) s = .refused .twiBusy ∧
    (len ≠ 0 → exec (.twiRead addr7 len ptr) s = .refused .twiBusy)

/-- R137, R112: `TWI.WRITE` with length 0 is legal, and the handler then stops with success at the address
acknowledge without a data byte; `TWI.READ` with length 0 is refused with `ReadLengthZero`, on a busy unit and from
IRQ too, where R136 would answer `TwiBusy`: that order is the model's choice (log entry 13). -/
def Obligations.ZeroLength : Prop :=
  ∀ (s : State) (addr7 : BitVec 7) (ptr : Addr) (low : Byte),
    (s.context = .main → s.twPhase = .idle →
      ∃ t, exec (.twiWrite addr7 0 ptr) s = .next t ∧ t.twRemaining = 0 ∧
        ∃ u, exec (.evtMtSlaAck low) t = .next u ∧ u.twResult = .success ∧
          ctrlStoSet u.twCtrl = true ∧ u.twData = t.twData) ∧
    exec (.twiRead addr7 0 ptr) s = .refused .readLengthZero

/-! ### TWI events -/

/-- R150: an event is admitted only while a transaction is in flight; at any other time every event is refused
with `EventOutsideTransaction`, and in flight none is. -/
def Obligations.EventsAreAdmittedInFlightOnly : Prop :=
  ∀ (s : State) (i : Instr), isEvent i = true →
    (exec i s = .refused .eventOutsideTransaction ↔
      ¬(s.twPhase = .waitResult ∧ s.twResult = .pending))

/-- R151: `EVT START` loads the target address byte and continues with `STA` cleared; nothing else changes. -/
def Obligations.StartLoadsTheAddress : Prop :=
  ∀ (s : State) (low : Byte), s.twPhase = .waitResult → s.twResult = .pending →
    exec (.evtStart low) s = .next { s with twData := s.twAddr, twCtrl := 0x05 }

/-- R152, R153: at `MT_SLA_ACK` and `MT_DATA_ACK`, if bytes remain the next one is loaded (from `tw_imm` or from
`BUF`), the cursor advances and the count decrements; otherwise a STOP is requested and the result is
`SUCCESS`. Nothing else changes; no byte of `BUF` is written. -/
def Obligations.AcknowledgedWriteSendsTheNextByte : Prop :=
  ∀ (s : State) (low : Byte) (i : Instr), i = .evtMtSlaAck low ∨ i = .evtMtDataAck low →
    s.twPhase = .waitResult → s.twResult = .pending →
    (s.twRemaining ≠ 0 →
      exec i s = .next { s with
        twData := if s.twSrc = true then s.twImm else readByte s s.twCursor
        twCursor := BitVec.ofNat 16 (s.twCursor.toNat + 1)
        twRemaining := BitVec.ofNat 8 (s.twRemaining.toNat - 1), twCtrl := 0x05 }) ∧
    (s.twRemaining = 0 → exec i s = .next { s with twCtrl := 0x15, twResult := .success })

/-- R154: `EVT MT_DATA_NACK` requests a STOP and marks success whatever the count; nothing else changes. -/
def Obligations.DataNackEndsWithSuccess : Prop :=
  ∀ (s : State) (low : Byte), s.twPhase = .waitResult → s.twResult = .pending →
    exec (.evtMtDataNack low) s = .next { s with twCtrl := 0x15, twResult := .success }

/-- R156: `EVT MR_SLA_ACK` asks for an ACK of the next byte exactly while more than one byte is still to be
stored; nothing else changes. -/
def Obligations.ReadAddressAckChoosesTheAcknowledge : Prop :=
  ∀ (s : State) (low : Byte), s.twPhase = .waitResult → s.twResult = .pending →
    exec (.evtMrSlaAck low) s = .next { s with
      twCtrl := if 1 < s.twRemaining.toNat then 0x45 else 0x05 }

/-- R155: `EVT MR_DATA_ACK` stores the received byte at the cursor, advances it, decrements the count and then
chooses the acknowledge of the next byte by the new count; at a count of 0 it is refused with `ReadOverrun`. -/
def Obligations.ReceivedByteIsStored : Prop :=
  ∀ (s : State) (low : Byte), s.twPhase = .waitResult → s.twResult = .pending →
    Memory.wf s.buf = true →
    (s.twRemaining ≠ 0 →
      ∃ t, exec (.evtMrDataAck low) s = .next t ∧
        t = { s with
          buf := t.buf
          twCursor := BitVec.ofNat 16 (s.twCursor.toNat + 1)
          twRemaining := BitVec.ofNat 8 (s.twRemaining.toNat - 1)
          twCtrl := if 1 < s.twRemaining.toNat - 1 then 0x45 else 0x05 } ∧
        readByte t s.twCursor = s.twData ∧
        ∀ a, a ≠ s.twCursor → readByte t a = readByte s a) ∧
    (s.twRemaining = 0 → exec (.evtMrDataAck low) s = .refused .readOverrun)

/-- R157: `EVT MR_DATA_NACK` stores the last byte, advances the cursor, decrements the count, requests a STOP and
marks success whatever the count; at a count of 0 it is refused with `ReadOverrun`. -/
def Obligations.LastByteIsStoredAndStopped : Prop :=
  ∀ (s : State) (low : Byte), s.twPhase = .waitResult → s.twResult = .pending →
    Memory.wf s.buf = true →
    (s.twRemaining ≠ 0 →
      ∃ t, exec (.evtMrDataNack low) s = .next t ∧
        t = { s with
          buf := t.buf
          twCursor := BitVec.ofNat 16 (s.twCursor.toNat + 1)
          twRemaining := BitVec.ofNat 8 (s.twRemaining.toNat - 1)
          twCtrl := 0x15, twResult := .success } ∧
        readByte t s.twCursor = s.twData ∧
        ∀ a, a ≠ s.twCursor → readByte t a = readByte s a) ∧
    (s.twRemaining = 0 → exec (.evtMrDataNack low) s = .refused .readOverrun)

/-- R158, R159, R160: an address that is not acknowledged and every unrecognized status mark failure and request
no STOP; the step consumes the event (R284), and nothing else changes. -/
def Obligations.AddressNackAndOtherMarkFailure : Prop :=
  ∀ (s : State) (low : Byte) (status : Byte), s.twPhase = .waitResult → s.twResult = .pending →
    exec (.evtMtSlaNack low) s = .next { s with twCtrl := s.twCtrl &&& 0x7F, twResult := .failure } ∧
    exec (.evtMrSlaNack low) s = .next { s with twCtrl := s.twCtrl &&& 0x7F, twResult := .failure } ∧
    exec (.evtOther status) s = .next { s with twCtrl := s.twCtrl &&& 0x7F, twResult := .failure }

/-- R163, R281: the events that end a transaction are `MT_SLA_ACK` or `MT_DATA_ACK` with a count of 0,
`MT_DATA_NACK`, `MR_DATA_NACK` (all with `SUCCESS` and a STOP request) and `MT_SLA_NACK`, `MR_SLA_NACK`, `OTHER`
(all with `FAILURE`, `TW_CTRL.STO` as it was); after one no further event is admitted. -/
def Obligations.TerminalEvents : Prop :=
  ∀ (s t : State) (i : Instr), isEvent i = true → exec i s = .next t →
    (t.twResult = .success ↔
      (∃ low, (i = .evtMtSlaAck low ∨ i = .evtMtDataAck low) ∧ s.twRemaining = 0) ∨
      (∃ low, i = .evtMtDataNack low ∨ i = .evtMrDataNack low)) ∧
    (t.twResult = .failure ↔
      (∃ low, i = .evtMtSlaNack low ∨ i = .evtMrSlaNack low) ∨ (∃ b, i = .evtOther b)) ∧
    (t.twResult = .success → ctrlStoSet t.twCtrl = true) ∧
    (t.twResult = .failure → ctrlStoSet t.twCtrl = ctrlStoSet s.twCtrl) ∧
    (t.twResult ≠ .pending → ∀ j : Instr, isEvent j = true →
      exec j t = .refused .eventOutsideTransaction)

/-- R134, R76: a read whose peripheral reports `START`, `MR_SLA_ACK`, `MR_DATA_ACK` for every byte but the last
and `MR_DATA_NACK` for the last stores exactly the received bytes in order, ascending from `ptr`, leaves every
other byte alone and returns 0. The moves are the premise R292 asks for; the script is the model's (log entry 6), and
the count of steps rests on the handler running at once (log entry 16). -/
def Obligations.ReadStoresExactlyTheBytes : Prop :=
  ∀ (s : State) (addr7 : BitVec 7) (ptr : Addr) (ds : List Byte) (last d0 d1 : Byte),
    Inv s → s.twPhase = .idle → ds.length < 255 →
    s.script =
      .command .main (encode (.twiRead addr7 (BitVec.ofNat 8 (ds.length + 1)) ptr)).2 ::
      .raise 0x08 d0 :: .raise 0x40 d1 :: (ds.map (Move.raise 0x50) ++
      [.raise 0x58 last, .poll, .stopComplete, .poll]) →
    ∃ t, Sys2Proof.core.run (2 * ds.length + 10) s = .next t ∧
      t.script = [] ∧ t.twPhase = .idle ∧ t.respMain = some (.ret .success) ∧ t.twRemaining = 0 ∧
      t.twCursor = addrAdd ptr (ds.length + 1) ∧
      (∀ k, k ≤ ds.length → readByte t (addrAdd ptr k) = (ds ++ [last]).getD k 0) ∧
      (∀ a : Addr, ds.length < (a - ptr).toNat → readByte t a = readByte s a)

/-- R132, R76: a write whose peripheral acknowledges the address and every byte hands the address byte and then
`MemRead(ptr, len)` to `TW_DATA`, one byte per event in ascending address order, then stops and returns 0; `BUF`
is not written. The moves are the premise R292 asks for; the script is the model's (log entry 6), and the counts of
steps rest on the handler running at once (log entry 16). -/
def Obligations.WriteHandsOverTheBytesInOrder : Prop :=
  ∀ (s : State) (addr7 : BitVec 7) (ptr : Addr) (ds : List Byte) (d0 d1 : Byte),
    Inv s → s.twPhase = .idle → ds.length < 256 →
    s.script =
      .command .main (encode (.twiWrite addr7 (BitVec.ofNat 8 ds.length) ptr)).2 ::
      .raise 0x08 d0 :: .raise 0x18 d1 :: (ds.map (Move.raise 0x28) ++
      [.poll, .stopComplete, .poll]) →
    (∃ t, Sys2Proof.core.run 3 s = .next t ∧
      t.twData = BitVec.ofNat 8 (2 * addr7.toNat)) ∧
    (∀ k, k < ds.length → ∃ t, Sys2Proof.core.run (2 * k + 5) s = .next t ∧
      t.twData = readByte s (addrAdd ptr k)) ∧
    (∃ t, Sys2Proof.core.run (2 * ds.length + 8) s = .next t ∧
      t.script = [] ∧ t.twPhase = .idle ∧ t.respMain = some (.ret .success) ∧ t.twRemaining = 0 ∧
      t.buf = s.buf)

/-! ### GF unit -/

/-- R170: `GF.MUL2 x` answers the doubling of `x`, which is a bijection on bytes; no state but the answer. -/
def Obligations.Mul2Rule : Prop :=
  (∀ x : Byte, opcode (.gfMul2 x) = some 0x80) ∧
  (∀ (s : State) (x : Byte), exec (.gfMul2 x) s =
    .next (respond (.val (if x.getLsbD 7 = true then (x <<< 1) ^^^ 0x1B else x <<< 1)) s)) ∧
  Function.Bijective mul2 ∧ mul2 0x00 = 0x00 ∧ mul2 0x80 = 0x1B ∧ mul2 0x8D = 0x01 ∧
  mul2 0x57 = 0xAE ∧ mul2 0xAE = 0x47

/-- R171, R170: `GF.DIV2 x` answers the inverse of doubling, in the closed form R171 derives. -/
def Obligations.Div2Rule : Prop :=
  (∀ x : Byte, opcode (.gfDiv2 x) = some 0x81) ∧
  (∀ (s : State) (x : Byte), exec (.gfDiv2 x) s =
    .next (respond (.val (if x.getLsbD 0 = true then (x >>> 1) ^^^ 0x8D else x >>> 1)) s)) ∧
  (∀ x : Byte, div2 (mul2 x) = x ∧ mul2 (div2 x) = x) ∧
  div2 0x00 = 0x00 ∧ div2 0x01 = 0x8D ∧ div2 0x1B = 0x80 ∧ div2 0x36 = 0x1B ∧ div2 0x80 = 0x40

/-- R172: `GF.LOG x` answers the unique `e` in 0..254 with `0x03^e = x` for a nonzero `x`, and is refused with
`LogOfZero` for 0. The generator is the spec's default (log entry 14). -/
def Obligations.LogRule : Prop :=
  (∀ x : Byte, opcode (.gfLog x) = some 0x82) ∧
  (∀ (s : State) (x : Byte), x ≠ 0 → ∃ e : Byte, exec (.gfLog x) s = .next (respond (.val e) s) ∧
    e.toNat ≤ 254 ∧ power 0x03 e.toNat = x ∧
    ∀ k : Nat, k ≤ 254 → power 0x03 k = x → k = e.toNat) ∧
  (∀ s : State, exec (.gfLog 0) s = .refused .logOfZero) ∧
  log 0x03 = 0x01 ∧ log 0x02 = 0x19 ∧ log 0x01 = 0x00

/-- R173: `GF.ALOG e` answers `0x03^(e mod 255)`, never 0; it undoes `GF.LOG`, and `GF.LOG` undoes it
modulo 255. -/
def Obligations.AlogRule : Prop :=
  (∀ x : Byte, opcode (.gfAlog x) = some 0x83) ∧
  (∀ (s : State) (e : Byte), exec (.gfAlog e) s =
    .next (respond (.val (power 0x03 (e.toNat % 255))) s)) ∧
  (∀ x : Byte, x ≠ 0 → alog (log x) = x) ∧
  (∀ e : Byte, (log (alog e)).toNat = e.toNat % 255 ∧ alog e ≠ 0) ∧
  alog 255 = 0x01 ∧ alog 0 = 0x01 ∧ alog 0x01 = 0x03 ∧ alog 0x19 = 0x02 ∧ alog 0xFE = 0xF6

/-- R174: `GF.INV x` answers 0 for 0 and else the table form, which is the unique `y` with
`gf_mul(x, y) = 0x01`. -/
def Obligations.InverseRule : Prop :=
  (∀ x : Byte, opcode (.gfInv x) = some 0x84) ∧
  (∀ (s : State) (x : Byte), exec (.gfInv x) s =
    .next (respond (.val (if x = 0 then 0
      else gfAlogRom (BitVec.ofNat 8 ((255 - (gfLogRom x).toNat) % 255)))) s)) ∧
  (∀ x y : Byte, x ≠ 0 → (mul x y = 0x01 ↔ y = inv x)) ∧
  (∀ x : Byte, inv (inv x) = x) ∧ inv 0x00 = 0x00 ∧ inv 0x01 = 0x01 ∧ inv 0x53 = 0xCA

/-- R175, R170, R172, R173: `GF.MUL a, b` answers the product; the shift-and-add and the table form agree on all
pairs, as R175 derives; the
product is commutative, associative, distributes over xor, has the identity 0x01, and its multiples by 0x02
and 0x8D are doubling and halving; 0 times anything is 0. -/
def Obligations.MulRule : Prop :=
  (∀ a b : Byte, opcode (.gfMul a b) = some 0x85) ∧
  (∀ (s : State) (a b : Byte), exec (.gfMul a b) s = .next (respond (.val (mul a b)) s)) ∧
  (∀ a b : Byte, mul a b =
    (List.range 8).foldl (fun acc i => if b.getLsbD i = true then acc ^^^ mul2Pow i a else acc) 0) ∧
  (∀ a b : Byte, mul a b = if a = 0 ∨ b = 0 then 0
    else gfAlogRom (BitVec.ofNat 8 (((gfLogRom a).toNat + (gfLogRom b).toNat) % 255))) ∧
  (∀ a b : Byte, mul a b = mul b a) ∧
  (∀ a b c : Byte, mul (mul a b) c = mul a (mul b c)) ∧
  (∀ a b c : Byte, mul a (b ^^^ c) = mul a b ^^^ mul a c) ∧
  (∀ a : Byte, mul a 0x01 = a ∧ mul a 0x02 = mul2 a ∧ mul a 0x8D = div2 a ∧ mul a 0 = 0 ∧ mul 0 a = 0) ∧
  mul 0x57 0x83 = 0xC1 ∧ mul 0x57 0x13 = 0xFE

/-! ### S-box and round commands -/

/-- R190, R191, R192, R194: `AES.SBOX x` answers `affine(gf_inv(x))`, a bijection without fixed points and without
`x ^ 0xFF`; `AES.ISBOX y` answers its inverse `gf_inv(affine_inv(y))`; no state is written but the answer. -/
def Obligations.SboxRule : Prop :=
  (∀ x : Byte, opcode (.aesSbox x) = some 0x50 ∧ opcode (.aesIsbox x) = some 0x51) ∧
  (∀ (s : State) (x : Byte), exec (.aesSbox x) s = .next (respond (.val (affine (inv x))) s) ∧
    exec (.aesIsbox x) s = .next (respond (.val (inv (affineInv x))) s)) ∧
  Function.Bijective sbox ∧
  (∀ x : Byte, invSbox (sbox x) = x ∧ affineInv (affine x) = x ∧ sbox x ≠ x ∧ sbox x ≠ x ^^^ 0xFF) ∧
  sbox 0x00 = 0x63 ∧ sbox 0x01 = 0x7C ∧ sbox 0x53 = 0xED ∧ sbox 0xFF = 0x16 ∧
  invSbox 0x63 = 0x00 ∧ invSbox 0x00 = 0x52 ∧ invSbox 0xED = 0x53

/-- R193: the table-based and the computed S-box give the same results on all bytes, forward and inverse. -/
def Obligations.SboxStrategiesAgree : Prop :=
  ∀ x : Byte, sboxRom x = affine (inv x) ∧ invSboxRom x = inv (affineInv x)

/-- R201, R202: `AES.SUBBYTES` replaces each of the sixteen bytes by its S-box value, `AES.ISUBBYTES` by its
inverse S-box value; the second undoes the first. -/
def Obligations.SubBytesRule : Prop :=
  (∀ p : Addr, opcode (.aesSubBytes p) = some 0x52 ∧ opcode (.aesIsubBytes p) = some 0x53) ∧
  (∀ p : Addr, BlockCommand (.aesSubBytes p) p subBytes ∧ BlockCommand (.aesIsubBytes p) p invSubBytes) ∧
  (∀ (st : Block) (i : Nat), i < 16 →
    byteAt (subBytes st) i = sbox (byteAt st i) ∧ byteAt (invSubBytes st) i = invSbox (byteAt st i)) ∧
  (∀ st : Block, invSubBytes (subBytes st) = st)

/-- R203, R204: `AES.SHIFTROWS` rotates row `r` left by `r` columns, `AES.ISHIFTROWS` right, by the rules'
index lists P and Q; the second undoes the first. -/
def Obligations.ShiftRowsRule : Prop :=
  (∀ p : Addr, opcode (.aesShiftRows p) = some 0x54 ∧ opcode (.aesIshiftRows p) = some 0x55) ∧
  (∀ p : Addr, BlockCommand (.aesShiftRows p) p shiftRows ∧
    BlockCommand (.aesIshiftRows p) p invShiftRows) ∧
  (∀ (st : Block) (r c : Nat), r < 4 → c < 4 →
    byteAt (shiftRows st) (r + 4 * c) = byteAt st (r + 4 * ((c + r) % 4)) ∧
    byteAt (invShiftRows st) (r + 4 * c) = byteAt st (r + 4 * ((c + 4 - r) % 4))) ∧
  (∀ (st : Block) (i : Nat), i < 16 →
    byteAt (shiftRows st) i =
      byteAt st ([0, 5, 10, 15, 4, 9, 14, 3, 8, 13, 2, 7, 12, 1, 6, 11].getD i 0) ∧
    byteAt (invShiftRows st) i =
      byteAt st ([0, 13, 10, 7, 4, 1, 14, 11, 8, 5, 2, 15, 12, 9, 6, 3].getD i 0)) ∧
  (∀ st : Block, invShiftRows (shiftRows st) = st)

/-- R205, R175: `AES.MIXCOLUMNS` replaces each column by its product with the matrix of coefficients 2, 3, 1, 1, and the
form with doubling only, which R205 derives, gives the same for every column. -/
def Obligations.MixColumnsRule : Prop :=
  (∀ p : Addr, opcode (.aesMixColumns p) = some 0x56) ∧
  (∀ p : Addr, BlockCommand (.aesMixColumns p) p mixColumns) ∧
  (∀ (st : Block) (c : Nat), c < 4 →
    let a := fun r => byteAt st (4 * c + r)
    let b := fun r => byteAt (mixColumns st) (4 * c + r)
    let x := a 0 ^^^ a 1 ^^^ a 2 ^^^ a 3
    b 0 = mul 2 (a 0) ^^^ mul 3 (a 1) ^^^ a 2 ^^^ a 3 ∧
    b 1 = a 0 ^^^ mul 2 (a 1) ^^^ mul 3 (a 2) ^^^ a 3 ∧
    b 2 = a 0 ^^^ a 1 ^^^ mul 2 (a 2) ^^^ mul 3 (a 3) ∧
    b 3 = mul 3 (a 0) ^^^ a 1 ^^^ a 2 ^^^ mul 2 (a 3) ∧
    (∀ i, i < 4 → b i = a i ^^^ x ^^^ mul2 (a i ^^^ a ((i + 1) % 4))) ∧
    (a 0 = a 1 → a 1 = a 2 → a 2 = a 3 → ∀ i, i < 4 → b i = a i))

/-- R206, R205: `AES.IMIXCOLUMNS` replaces each column by its product with the matrix of coefficients 14, 11, 13, 9; the
form with doubling only, which R206 derives, gives the same, and the two commands' functions undo each other on
every block. -/
def Obligations.InvMixColumnsRule : Prop :=
  (∀ p : Addr, opcode (.aesImixColumns p) = some 0x57) ∧
  (∀ p : Addr, BlockCommand (.aesImixColumns p) p invMixColumns) ∧
  (∀ (st : Block) (c : Nat), c < 4 →
    let a := fun r => byteAt st (4 * c + r)
    let b := fun r => byteAt (invMixColumns st) (4 * c + r)
    let u := mul2 (mul2 (a 0 ^^^ a 2))
    let v := mul2 (mul2 (a 1 ^^^ a 3))
    let d := fun r => a r ^^^ (if r % 2 = 0 then u else v)
    let x := d 0 ^^^ d 1 ^^^ d 2 ^^^ d 3
    b 0 = mul 14 (a 0) ^^^ mul 11 (a 1) ^^^ mul 13 (a 2) ^^^ mul 9 (a 3) ∧
    b 1 = mul 9 (a 0) ^^^ mul 14 (a 1) ^^^ mul 11 (a 2) ^^^ mul 13 (a 3) ∧
    b 2 = mul 13 (a 0) ^^^ mul 9 (a 1) ^^^ mul 14 (a 2) ^^^ mul 11 (a 3) ∧
    b 3 = mul 11 (a 0) ^^^ mul 13 (a 1) ^^^ mul 9 (a 2) ^^^ mul 14 (a 3) ∧
    (∀ i, i < 4 → b i = d i ^^^ x ^^^ mul2 (d i ^^^ d ((i + 1) % 4))) ∧
    (a 0 = a 1 → a 1 = a 2 → a 2 = a 3 → ∀ i, i < 4 → b i = a i)) ∧
  (∀ st : Block, invMixColumns (mixColumns st) = st ∧ mixColumns (invMixColumns st) = st)

/-- R200: `AES.ADDROUNDKEY` xors the sixteen key bytes into the block in place, leaving the key as it was; it is its
own inverse, an all-zero key changes nothing, and overlapping operands are refused (R88). -/
def Obligations.AddRoundKeyRule : Prop :=
  (∀ b k : Addr, opcode (.aesAddRoundKey b k) = some 0x58) ∧
  (∀ (s : State) (b k : Addr), Memory.wf s.buf = true → overlaps b 16 k 16 = false →
    ∃ t, exec (.aesAddRoundKey b k) s = .next t ∧
      (∀ i, i < 16 → readByte t (addrAdd b i) = readByte s (addrAdd b i) ^^^ readByte s (addrAdd k i)) ∧
      (∀ a : Addr, 16 ≤ (a - b).toNat → readByte t a = readByte s a) ∧
      { t with buf := s.buf, st := s.st } = respond .done s) ∧
  (∀ (s : State) (b k : Addr), overlaps b 16 k 16 = true →
    exec (.aesAddRoundKey b k) s = .refused .operandOverlap) ∧
  (∀ (s : State) (b : Addr), exec (.aesAddRoundKey b b) s = .refused .operandOverlap) ∧
  (∀ st k : Block, addRoundKey (addRoundKey st k) k = st ∧ addRoundKey st (Vector.replicate 16 0) = st)

/-! ### Key schedule -/

/-- R223, R224: one 128-bit step forward by the substituted and rotated last word, the constant and the cascade;
the inverse step undoes it and is undone by it; as commands both work in place on the sixteen key bytes. What
the working register `rk` holds after is left open here (R46). -/
def Obligations.KeySteps128Rule : Prop :=
  (∀ (s : State) (p : Addr) (c : Byte), Memory.wf s.buf = true →
    (∃ t, exec (.aesKs128f p c) s = .next t ∧ Stored s t p (ks128Fwd (readBytes s p 16) c) ∧
      { t with buf := s.buf, rk := s.rk } = respond .done s) ∧
    (∃ t, exec (.aesKs128i p c) s = .next t ∧ Stored s t p (ks128Inv (readBytes s p 16) c) ∧
      { t with buf := s.buf, rk := s.rk } = respond .done s)) ∧
  (∀ (k : Block) (c : Byte),
    let f := ks128Fwd k c
    byteAt f 0 = byteAt k 0 ^^^ sbox (byteAt k 13) ^^^ c ∧
    byteAt f 1 = byteAt k 1 ^^^ sbox (byteAt k 14) ∧
    byteAt f 2 = byteAt k 2 ^^^ sbox (byteAt k 15) ∧
    byteAt f 3 = byteAt k 3 ^^^ sbox (byteAt k 12) ∧
    (∀ i, 4 ≤ i → i < 16 → byteAt f i = byteAt k i ^^^ byteAt f (i - 4)) ∧
    ks128Inv (ks128Fwd k c) c = k ∧ ks128Fwd (ks128Inv k c) c = k)

/-- R225, R226: one 256-bit step forward, with the substituted but not rotated middle word; the inverse step undoes
it and is undone by it; as commands both work in place on the thirty-two key bytes. What the working register
`rk` holds after is left open here (R46). -/
def Obligations.KeySteps256Rule : Prop :=
  (∀ (s : State) (p : Addr) (c : Byte), Memory.wf s.buf = true →
    (∃ t, exec (.aesKs256f p c) s = .next t ∧ Stored s t p (ks256Fwd (readBytes s p 32) c) ∧
      { t with buf := s.buf, rk := s.rk } = respond .done s) ∧
    (∃ t, exec (.aesKs256i p c) s = .next t ∧ Stored s t p (ks256Inv (readBytes s p 32) c) ∧
      { t with buf := s.buf, rk := s.rk } = respond .done s)) ∧
  (∀ (k : Key256) (c : Byte),
    let f := ks256Fwd k c
    byteAt f 0 = byteAt k 0 ^^^ sbox (byteAt k 29) ^^^ c ∧
    byteAt f 1 = byteAt k 1 ^^^ sbox (byteAt k 30) ∧
    byteAt f 2 = byteAt k 2 ^^^ sbox (byteAt k 31) ∧
    byteAt f 3 = byteAt k 3 ^^^ sbox (byteAt k 28) ∧
    (∀ i, 4 ≤ i → i < 32 → byteAt f i =
      byteAt k i ^^^ (if i / 4 = 4 then sbox (byteAt f (i - 4)) else byteAt f (i - 4))) ∧
    ks256Inv (ks256Fwd k c) c = k ∧ ks256Fwd (ks256Inv k c) c = k)

/-- R220, R221, R222: the ten constants of the forward steps, the same ten walked backward by halving, and the
values left in `rcon` at the end of an operation. -/
def Obligations.RoundConstants : Prop :=
  (List.range 10).map rconAt = [0x01, 0x02, 0x04, 0x08, 0x10, 0x20, 0x40, 0x80, 0x1B, 0x36] ∧
  (∀ j : Nat, div2 (rconAt (j + 1)) = rconAt j) ∧ div2 (rconAt 0) = 0x8D ∧ mul2 0x80 = 0x1B ∧
  (∀ k b : Block, (enc128 k b).rcon = 0x6C ∧ (dec128 k b).rcon = 0x8D ∧ (derive128 k).2 = 0x6C) ∧
  (∀ (k : Key256) (b : Block), (enc256 k b).rcon = 0x80 ∧ (dec256 k b).rcon = 0x8D ∧
    (derive256 k).2 = 0x80)

/-! ### Block operations -/

/-- R240, R241, R242: the three 128-bit block commands complete on operands that do not overlap (the destination of
`DERIVE` may equal its key source), store their result and change no other byte; the TWI unit and the counter
registers are untouched; overlapping operands are refused (R88). That `rk[16..31]` reads as before is the model's
reading of R41, "a 128-bit operation uses `rk[0..15]` only" (log entry 11; R46 and R52 leave `rk` open). -/
def Obligations.BlockCommands128 : Prop :=
  ∀ (s : State) (k p : Addr), Memory.wf s.buf = true →
    (overlaps k 16 p 16 = false →
      (∃ t, exec (.aes128Enc k p) s = .next t ∧
        Stored s t p (enc128 (readBytes s k 16) (readBytes s p 16)).st ∧
        { t with buf := s.buf, st := s.st, rk := s.rk, rcon := s.rcon, round := s.round } = respond .done s ∧
        ∀ i, 16 ≤ i → byteAt t.rk i = byteAt s.rk i) ∧
      (∃ t, exec (.aes128Dec k p) s = .next t ∧
        Stored s t p (dec128 (readBytes s k 16) (readBytes s p 16)).st ∧
        { t with buf := s.buf, st := s.st, rk := s.rk, rcon := s.rcon, round := s.round } = respond .done s ∧
        ∀ i, 16 ≤ i → byteAt t.rk i = byteAt s.rk i)) ∧
    (k = p ∨ overlaps k 16 p 16 = false →
      ∃ t, exec (.aes128Derive k p) s = .next t ∧
        Stored s t p (keyBlock128 10 (readBytes s k 16)) ∧
        { t with buf := s.buf, rk := s.rk, rcon := s.rcon, round := s.round } = respond .done s ∧
        ∀ i, 16 ≤ i → byteAt t.rk i = byteAt s.rk i) ∧
    (overlaps k 16 p 16 = true →
      exec (.aes128Enc k p) s = .refused .operandOverlap ∧
      exec (.aes128Dec k p) s = .refused .operandOverlap ∧
      (k ≠ p → exec (.aes128Derive k p) s = .refused .operandOverlap))

/-- R243, R244, R245: the same for the three 256-bit block commands; the derived key is key block 7. -/
def Obligations.BlockCommands256 : Prop :=
  ∀ (s : State) (k p : Addr), Memory.wf s.buf = true →
    (overlaps k 32 p 16 = false →
      (∃ t, exec (.aes256Enc k p) s = .next t ∧
        Stored s t p (enc256 (readBytes s k 32) (readBytes s p 16)).st ∧
        { t with buf := s.buf, st := s.st, rk := s.rk, rcon := s.rcon, round := s.round } = respond .done s) ∧
      (∃ t, exec (.aes256Dec k p) s = .next t ∧
        Stored s t p (dec256 (readBytes s k 32) (readBytes s p 16)).st ∧
        { t with buf := s.buf, st := s.st, rk := s.rk, rcon := s.rcon, round := s.round } = respond .done s)) ∧
    (k = p ∨ overlaps k 32 p 32 = false →
      ∃ t, exec (.aes256Derive k p) s = .next t ∧
        Stored s t p (keyBlock256 7 (readBytes s k 32)) ∧
        { t with buf := s.buf, rk := s.rk, rcon := s.rcon, round := s.round } = respond .done s) ∧
    (overlaps k 32 p 16 = true →
      exec (.aes256Enc k p) s = .refused .operandOverlap ∧
      exec (.aes256Dec k p) s = .refused .operandOverlap) ∧
    (k ≠ p → overlaps k 32 p 32 = true → exec (.aes256Derive k p) s = .refused .operandOverlap)

/-- R246, R241: for every 128-bit key and every block, decryption with the derived key undoes encryption, and the
working key ends at the cipher key. -/
def Obligations.RoundTrip128 : Prop :=
  ∀ key blk : Block,
    (dec128 (derive128 key).1 (enc128 key blk).st).st = blk ∧
    (dec128 (derive128 key).1 (enc128 key blk).st).rk = key

/-- R246, R244: the same for every 256-bit key. -/
def Obligations.RoundTrip256 : Prop :=
  ∀ (key : Key256) (blk : Block),
    (dec256 (derive256 key).1 (enc256 key blk).st).st = blk ∧
    (dec256 (derive256 key).1 (enc256 key blk).st).rk = key

/-- R243, R227: encryption under a 256-bit key is the cipher with `Nr` = 14 over the round keys of R227, rounds 1 to
13 full and round 14 without MixColumns, for every key and every block. -/
def Obligations.Encrypt256IsTheFourteenRoundCipher : Prop :=
  ∀ (key : Key256) (blk : Block), (enc256 key blk).st = cipher256 key blk

/-- R247: the known answers the rules print for a 128-bit and a 256-bit key, in both directions (R240, R241, R243,
R244). -/
def Obligations.KnownAnswers : Prop :=
  (enc128 (blockOf 0x2b7e151628aed2a6abf7158809cf4f3c) (blockOf 0x3243f6a8885a308d313198a2e0370734)).st =
    blockOf 0x3925841d02dc09fbdc118597196a0b32 ∧
  (dec128 (blockOf 0xd014f9a8c9ee2589e13f0cc8b6630ca6) (blockOf 0x3925841d02dc09fbdc118597196a0b32)).st =
    blockOf 0x3243f6a8885a308d313198a2e0370734 ∧
  (enc256 (Vector.ofFn fun i => BitVec.ofNat 8 i.val) (blockOf 0x00112233445566778899aabbccddeeff)).st =
    blockOf 0x8ea2b7ca516745bfeafc49904b496089 ∧
  (dec256 (Vector.ofFn fun i =>
      (0x24fc79ccbf0979e9371ac23c6d68de36721f7b9cdbed347ca5ba1fd66842d23c : BitVec 256).extractLsb'
        (8 * (31 - i.val)) 8)
    (blockOf 0x8ea2b7ca516745bfeafc49904b496089)).st = blockOf 0x00112233445566778899aabbccddeeff

/-! ### Counter mode -/

/-- R260, R261: `AES128.EXPAND` stores the eleven round keys end to end, `RK_0` being the key, each next one the
forward step of the last; it completes where the operands do not overlap or the pointers are equal, and is
refused where they overlap otherwise. -/
def Obligations.ExpandStoresTheRoundKeys : Prop :=
  ∀ (s : State) (k p : Addr), Memory.wf s.buf = true →
    (k = p ∨ overlaps k 16 p 176 = false →
      ∃ t, exec (.aes128Expand k p) s = .next t ∧
        (∀ j, j ≤ 10 → ∀ i, i < 16 → readByte t (addrAdd p (16 * j + i)) =
          byteAt (keyBlock128 j (readBytes s k 16)) i) ∧
        (∀ a : Addr, 176 ≤ (a - p).toNat → readByte t a = readByte s a) ∧
        { t with buf := s.buf, rk := s.rk, rcon := s.rcon, round := s.round } = respond .done s) ∧
    (k ≠ p → overlaps k 16 p 176 = true → exec (.aes128Expand k p) s = .refused .operandOverlap)

/-- R262, R266: for a schedule made from a key by R261, encryption under the schedule equals the generic 128-bit
encryption, for every key and every block. -/
def Obligations.ScheduleEncryptsLikeTheKey : Prop :=
  ∀ key blk : Block, encSched (expand128 key) blk = (enc128 key blk).st

/-- R264, R75: the increment adds one to the 16-byte big-endian integer, modulo 2^128, with the carry through all
sixteen bytes. -/
def Obligations.CounterIncrement : Prop :=
  (∀ c : Block, ctrValue (ctrInc c) = (ctrValue c + 1) % 2 ^ 128) ∧
  ctrInc (blockOf 0x000000000000000000000000000000ff) = blockOf 0x00000000000000000000000000000100 ∧
  ctrInc (blockOf 0x0000000000000000ffffffffffffffff) = blockOf 0x00000000000000010000000000000000 ∧
  ctrInc (blockOf 0xffffffffffffffffffffffffffffffff) = blockOf 0 ∧
  ctrInc (blockOf 0xf0f1f2f3f4f5f6f7f8f9fafbfcfdfeff) = blockOf 0xf0f1f2f3f4f5f6f7f8f9fafbfcfdff00

/-- R263: `AES128.CTR` xors block `i` of the data with the encryption of the counter plus `i`, writes the counter
plus `n` back, and changes no other byte; overlapping operands are refused (R88). -/
def Obligations.CounterModeRule : Prop :=
  ∀ (s : State) (sp cp : Addr) (n : Count) (dp : Addr), Memory.wf s.buf = true →
    (ctrOverlap sp cp n dp = false →
      ∃ t, exec (.aes128Ctr sp cp n dp) s = .next t ∧
        (∀ i, i < n.toNat → ∀ j, j < 16 →
          readByte t (addrAdd dp (16 * i + j)) = readByte s (addrAdd dp (16 * i + j)) ^^^
            byteAt (encSched (readBytes s sp 176) (counterAfter i (readBytes s cp 16))) j) ∧
        (∀ j, j < 16 → readByte t (addrAdd cp j) = byteAt (counterAfter n.toNat (readBytes s cp 16)) j) ∧
        (∀ a : Addr, 16 * n.toNat ≤ (a - dp).toNat → 16 ≤ (a - cp).toNat → readByte t a = readByte s a) ∧
        withWorkingOf s t = respond .done s) ∧
    (ctrOverlap sp cp n dp = true → exec (.aes128Ctr sp cp n dp) s = .refused .operandOverlap)

/-- R265, R263: a call with `a + b` blocks gives the same memory as a call with `a` blocks followed by a call with `b`
blocks on the rest of the data with the counter the first call left. -/
def Obligations.CounterModeStreams : Prop :=
  ∀ (s : State) (sp cp dp : Addr) (a b : Nat), Memory.wf s.buf = true → a + b < 2 ^ 16 →
    ctrOverlap sp cp (BitVec.ofNat 16 (a + b)) dp = false →
    ∃ t u v,
      exec (.aes128Ctr sp cp (BitVec.ofNat 16 (a + b)) dp) s = .next t ∧
      exec (.aes128Ctr sp cp (BitVec.ofNat 16 a) dp) s = .next u ∧
      exec (.aes128Ctr sp cp (BitVec.ofNat 16 b) (addrAdd dp (16 * a))) u = .next v ∧
      v.buf = t.buf

/-- R266: with the schedule made from a key, block `i` of the output is `encrypt_block(key, counter_i)` xor block
`i` of the data, and the counter after `k` increments is the initial one plus `k` modulo 2^128. -/
def Obligations.CounterModeEqualsTheGenericPath : Prop :=
  (∀ (s : State) (sp cp : Addr) (n : Count) (dp : Addr) (key : Block), Memory.wf s.buf = true →
    ctrOverlap sp cp n dp = false → readBytes s sp 176 = expand128 key →
    ∃ t, exec (.aes128Ctr sp cp n dp) s = .next t ∧
      (∀ i, i < n.toNat → readBytes t (addrAdd dp (16 * i)) 16 =
        addRoundKey (enc128 key (counterAfter i (readBytes s cp 16))).st
          (readBytes s (addrAdd dp (16 * i)) 16)) ∧
      ctrValue (readBytes t cp 16) = (ctrValue (readBytes s cp 16) + n.toNat) % 2 ^ 128) ∧
  (∀ (k : Nat) (c : Block), ctrValue (counterAfter k c) = (ctrValue c + k) % 2 ^ 128)

/-- R88, R89: two operands overlap exactly when an address, taken modulo 2^`PTR_W`, belongs to both. -/
def Obligations.OverlapIsASharedAddress : Prop :=
  ∀ (a b : Addr) (n m : Nat),
    overlaps a n b m = true ↔ ∃ i, i < n ∧ ∃ j, j < m ∧
      BitVec.ofNat 16 (a.toNat + i) = BitVec.ofNat 16 (b.toNat + j)
end

