-- ==== Sys2Proof/Laws/State.lean ====
section
/-! SUPPORT. One lemma per field per named update of the state: what the update leaves alone, and the one
value it sets. Each is true by unfolding the update once, so that no later proof does. -/

namespace Sys2Proof.Machine

@[simp] theorem writeByte_twAddr (s : State) (a : Addr) (b : Byte) : (writeByte s a b).twAddr = s.twAddr := rfl
@[simp] theorem writeByte_twRemaining (s : State) (a : Addr) (b : Byte) : (writeByte s a b).twRemaining = s.twRemaining := rfl
@[simp] theorem writeByte_twCursor (s : State) (a : Addr) (b : Byte) : (writeByte s a b).twCursor = s.twCursor := rfl
@[simp] theorem writeByte_twResult (s : State) (a : Addr) (b : Byte) : (writeByte s a b).twResult = s.twResult := rfl
@[simp] theorem writeByte_twImm (s : State) (a : Addr) (b : Byte) : (writeByte s a b).twImm = s.twImm := rfl
@[simp] theorem writeByte_twSrc (s : State) (a : Addr) (b : Byte) : (writeByte s a b).twSrc = s.twSrc := rfl
@[simp] theorem writeByte_twPhase (s : State) (a : Addr) (b : Byte) : (writeByte s a b).twPhase = s.twPhase := rfl
@[simp] theorem writeByte_twStatus (s : State) (a : Addr) (b : Byte) : (writeByte s a b).twStatus = s.twStatus := rfl
@[simp] theorem writeByte_twData (s : State) (a : Addr) (b : Byte) : (writeByte s a b).twData = s.twData := rfl
@[simp] theorem writeByte_twCtrl (s : State) (a : Addr) (b : Byte) : (writeByte s a b).twCtrl = s.twCtrl := rfl
@[simp] theorem writeByte_twBitrate (s : State) (a : Addr) (b : Byte) : (writeByte s a b).twBitrate = s.twBitrate := rfl
@[simp] theorem writeByte_twOwnaddr (s : State) (a : Addr) (b : Byte) : (writeByte s a b).twOwnaddr = s.twOwnaddr := rfl
@[simp] theorem writeByte_st (s : State) (a : Addr) (b : Byte) : (writeByte s a b).st = s.st := rfl
@[simp] theorem writeByte_rk (s : State) (a : Addr) (b : Byte) : (writeByte s a b).rk = s.rk := rfl
@[simp] theorem writeByte_rcon (s : State) (a : Addr) (b : Byte) : (writeByte s a b).rcon = s.rcon := rfl
@[simp] theorem writeByte_round (s : State) (a : Addr) (b : Byte) : (writeByte s a b).round = s.round := rfl
@[simp] theorem writeByte_ctr (s : State) (a : Addr) (b : Byte) : (writeByte s a b).ctr = s.ctr := rfl
@[simp] theorem writeByte_sched (s : State) (a : Addr) (b : Byte) : (writeByte s a b).sched = s.sched := rfl
@[simp] theorem writeByte_n (s : State) (a : Addr) (b : Byte) : (writeByte s a b).n = s.n := rfl
@[simp] theorem writeByte_buf (s : State) (a : Addr) (b : Byte) : (writeByte s a b).buf = Memory.write s.buf a.toNat b := rfl
@[simp] theorem writeByte_context (s : State) (a : Addr) (b : Byte) : (writeByte s a b).context = s.context := rfl
@[simp] theorem writeByte_respMain (s : State) (a : Addr) (b : Byte) : (writeByte s a b).respMain = s.respMain := rfl
@[simp] theorem writeByte_respIrq (s : State) (a : Addr) (b : Byte) : (writeByte s a b).respIrq = s.respIrq := rfl
@[simp] theorem writeByte_script (s : State) (a : Addr) (b : Byte) : (writeByte s a b).script = s.script := rfl

@[simp] theorem writeBytes_twAddr {m : Nat} (s : State) (a : Addr) (v : Bytes m) : (writeBytes s a v).twAddr = s.twAddr := rfl
@[simp] theorem writeBytes_twRemaining {m : Nat} (s : State) (a : Addr) (v : Bytes m) : (writeBytes s a v).twRemaining = s.twRemaining := rfl
@[simp] theorem writeBytes_twCursor {m : Nat} (s : State) (a : Addr) (v : Bytes m) : (writeBytes s a v).twCursor = s.twCursor := rfl
@[simp] theorem writeBytes_twResult {m : Nat} (s : State) (a : Addr) (v : Bytes m) : (writeBytes s a v).twResult = s.twResult := rfl
@[simp] theorem writeBytes_twImm {m : Nat} (s : State) (a : Addr) (v : Bytes m) : (writeBytes s a v).twImm = s.twImm := rfl
@[simp] theorem writeBytes_twSrc {m : Nat} (s : State) (a : Addr) (v : Bytes m) : (writeBytes s a v).twSrc = s.twSrc := rfl
@[simp] theorem writeBytes_twPhase {m : Nat} (s : State) (a : Addr) (v : Bytes m) : (writeBytes s a v).twPhase = s.twPhase := rfl
@[simp] theorem writeBytes_twStatus {m : Nat} (s : State) (a : Addr) (v : Bytes m) : (writeBytes s a v).twStatus = s.twStatus := rfl
@[simp] theorem writeBytes_twData {m : Nat} (s : State) (a : Addr) (v : Bytes m) : (writeBytes s a v).twData = s.twData := rfl
@[simp] theorem writeBytes_twCtrl {m : Nat} (s : State) (a : Addr) (v : Bytes m) : (writeBytes s a v).twCtrl = s.twCtrl := rfl
@[simp] theorem writeBytes_twBitrate {m : Nat} (s : State) (a : Addr) (v : Bytes m) : (writeBytes s a v).twBitrate = s.twBitrate := rfl
@[simp] theorem writeBytes_twOwnaddr {m : Nat} (s : State) (a : Addr) (v : Bytes m) : (writeBytes s a v).twOwnaddr = s.twOwnaddr := rfl
@[simp] theorem writeBytes_st {m : Nat} (s : State) (a : Addr) (v : Bytes m) : (writeBytes s a v).st = s.st := rfl
@[simp] theorem writeBytes_rk {m : Nat} (s : State) (a : Addr) (v : Bytes m) : (writeBytes s a v).rk = s.rk := rfl
@[simp] theorem writeBytes_rcon {m : Nat} (s : State) (a : Addr) (v : Bytes m) : (writeBytes s a v).rcon = s.rcon := rfl
@[simp] theorem writeBytes_round {m : Nat} (s : State) (a : Addr) (v : Bytes m) : (writeBytes s a v).round = s.round := rfl
@[simp] theorem writeBytes_ctr {m : Nat} (s : State) (a : Addr) (v : Bytes m) : (writeBytes s a v).ctr = s.ctr := rfl
@[simp] theorem writeBytes_sched {m : Nat} (s : State) (a : Addr) (v : Bytes m) : (writeBytes s a v).sched = s.sched := rfl
@[simp] theorem writeBytes_n {m : Nat} (s : State) (a : Addr) (v : Bytes m) : (writeBytes s a v).n = s.n := rfl
@[simp] theorem writeBytes_buf {m : Nat} (s : State) (a : Addr) (v : Bytes m) : (writeBytes s a v).buf = Memory.writeList s.buf a v.toList := rfl
@[simp] theorem writeBytes_context {m : Nat} (s : State) (a : Addr) (v : Bytes m) : (writeBytes s a v).context = s.context := rfl
@[simp] theorem writeBytes_respMain {m : Nat} (s : State) (a : Addr) (v : Bytes m) : (writeBytes s a v).respMain = s.respMain := rfl
@[simp] theorem writeBytes_respIrq {m : Nat} (s : State) (a : Addr) (v : Bytes m) : (writeBytes s a v).respIrq = s.respIrq := rfl
@[simp] theorem writeBytes_script {m : Nat} (s : State) (a : Addr) (v : Bytes m) : (writeBytes s a v).script = s.script := rfl

@[simp] theorem act_twAddr (a : Action) (s : State) : (act a s).twAddr = s.twAddr := rfl
@[simp] theorem act_twRemaining (a : Action) (s : State) : (act a s).twRemaining = s.twRemaining := rfl
@[simp] theorem act_twCursor (a : Action) (s : State) : (act a s).twCursor = s.twCursor := rfl
@[simp] theorem act_twResult (a : Action) (s : State) : (act a s).twResult = s.twResult := rfl
@[simp] theorem act_twImm (a : Action) (s : State) : (act a s).twImm = s.twImm := rfl
@[simp] theorem act_twSrc (a : Action) (s : State) : (act a s).twSrc = s.twSrc := rfl
@[simp] theorem act_twPhase (a : Action) (s : State) : (act a s).twPhase = s.twPhase := rfl
@[simp] theorem act_twStatus (a : Action) (s : State) : (act a s).twStatus = s.twStatus := rfl
@[simp] theorem act_twData (a : Action) (s : State) : (act a s).twData = s.twData := rfl
@[simp] theorem act_twCtrl (a : Action) (s : State) : (act a s).twCtrl = ctrlAfter a s.twCtrl := rfl
@[simp] theorem act_twBitrate (a : Action) (s : State) : (act a s).twBitrate = s.twBitrate := rfl
@[simp] theorem act_twOwnaddr (a : Action) (s : State) : (act a s).twOwnaddr = s.twOwnaddr := rfl
@[simp] theorem act_st (a : Action) (s : State) : (act a s).st = s.st := rfl
@[simp] theorem act_rk (a : Action) (s : State) : (act a s).rk = s.rk := rfl
@[simp] theorem act_rcon (a : Action) (s : State) : (act a s).rcon = s.rcon := rfl
@[simp] theorem act_round (a : Action) (s : State) : (act a s).round = s.round := rfl
@[simp] theorem act_ctr (a : Action) (s : State) : (act a s).ctr = s.ctr := rfl
@[simp] theorem act_sched (a : Action) (s : State) : (act a s).sched = s.sched := rfl
@[simp] theorem act_n (a : Action) (s : State) : (act a s).n = s.n := rfl
@[simp] theorem act_buf (a : Action) (s : State) : (act a s).buf = s.buf := rfl
@[simp] theorem act_context (a : Action) (s : State) : (act a s).context = s.context := rfl
@[simp] theorem act_respMain (a : Action) (s : State) : (act a s).respMain = s.respMain := rfl
@[simp] theorem act_respIrq (a : Action) (s : State) : (act a s).respIrq = s.respIrq := rfl
@[simp] theorem act_script (a : Action) (s : State) : (act a s).script = s.script := rfl

@[simp] theorem enterContext_twAddr (c : Context) (s : State) : (enterContext c s).twAddr = s.twAddr := rfl
@[simp] theorem enterContext_twRemaining (c : Context) (s : State) : (enterContext c s).twRemaining = s.twRemaining := rfl
@[simp] theorem enterContext_twCursor (c : Context) (s : State) : (enterContext c s).twCursor = s.twCursor := rfl
@[simp] theorem enterContext_twResult (c : Context) (s : State) : (enterContext c s).twResult = s.twResult := rfl
@[simp] theorem enterContext_twImm (c : Context) (s : State) : (enterContext c s).twImm = s.twImm := rfl
@[simp] theorem enterContext_twSrc (c : Context) (s : State) : (enterContext c s).twSrc = s.twSrc := rfl
@[simp] theorem enterContext_twPhase (c : Context) (s : State) : (enterContext c s).twPhase = s.twPhase := rfl
@[simp] theorem enterContext_twStatus (c : Context) (s : State) : (enterContext c s).twStatus = s.twStatus := rfl
@[simp] theorem enterContext_twData (c : Context) (s : State) : (enterContext c s).twData = s.twData := rfl
@[simp] theorem enterContext_twCtrl (c : Context) (s : State) : (enterContext c s).twCtrl = s.twCtrl := rfl
@[simp] theorem enterContext_twBitrate (c : Context) (s : State) : (enterContext c s).twBitrate = s.twBitrate := rfl
@[simp] theorem enterContext_twOwnaddr (c : Context) (s : State) : (enterContext c s).twOwnaddr = s.twOwnaddr := rfl
@[simp] theorem enterContext_st (c : Context) (s : State) : (enterContext c s).st = s.st := rfl
@[simp] theorem enterContext_rk (c : Context) (s : State) : (enterContext c s).rk = s.rk := rfl
@[simp] theorem enterContext_rcon (c : Context) (s : State) : (enterContext c s).rcon = s.rcon := rfl
@[simp] theorem enterContext_round (c : Context) (s : State) : (enterContext c s).round = s.round := rfl
@[simp] theorem enterContext_ctr (c : Context) (s : State) : (enterContext c s).ctr = s.ctr := rfl
@[simp] theorem enterContext_sched (c : Context) (s : State) : (enterContext c s).sched = s.sched := rfl
@[simp] theorem enterContext_n (c : Context) (s : State) : (enterContext c s).n = s.n := rfl
@[simp] theorem enterContext_buf (c : Context) (s : State) : (enterContext c s).buf = s.buf := rfl
@[simp] theorem enterContext_context (c : Context) (s : State) : (enterContext c s).context = c := rfl
@[simp] theorem enterContext_respMain (c : Context) (s : State) : (enterContext c s).respMain = s.respMain := rfl
@[simp] theorem enterContext_respIrq (c : Context) (s : State) : (enterContext c s).respIrq = s.respIrq := rfl
@[simp] theorem enterContext_script (c : Context) (s : State) : (enterContext c s).script = s.script := rfl

@[simp] theorem leaveContext_twAddr (s : State) : (leaveContext s).twAddr = s.twAddr := rfl
@[simp] theorem leaveContext_twRemaining (s : State) : (leaveContext s).twRemaining = s.twRemaining := rfl
@[simp] theorem leaveContext_twCursor (s : State) : (leaveContext s).twCursor = s.twCursor := rfl
@[simp] theorem leaveContext_twResult (s : State) : (leaveContext s).twResult = s.twResult := rfl
@[simp] theorem leaveContext_twImm (s : State) : (leaveContext s).twImm = s.twImm := rfl
@[simp] theorem leaveContext_twSrc (s : State) : (leaveContext s).twSrc = s.twSrc := rfl
@[simp] theorem leaveContext_twPhase (s : State) : (leaveContext s).twPhase = s.twPhase := rfl
@[simp] theorem leaveContext_twStatus (s : State) : (leaveContext s).twStatus = s.twStatus := rfl
@[simp] theorem leaveContext_twData (s : State) : (leaveContext s).twData = s.twData := rfl
@[simp] theorem leaveContext_twCtrl (s : State) : (leaveContext s).twCtrl = s.twCtrl := rfl
@[simp] theorem leaveContext_twBitrate (s : State) : (leaveContext s).twBitrate = s.twBitrate := rfl
@[simp] theorem leaveContext_twOwnaddr (s : State) : (leaveContext s).twOwnaddr = s.twOwnaddr := rfl
@[simp] theorem leaveContext_st (s : State) : (leaveContext s).st = s.st := rfl
@[simp] theorem leaveContext_rk (s : State) : (leaveContext s).rk = s.rk := rfl
@[simp] theorem leaveContext_rcon (s : State) : (leaveContext s).rcon = s.rcon := rfl
@[simp] theorem leaveContext_round (s : State) : (leaveContext s).round = s.round := rfl
@[simp] theorem leaveContext_ctr (s : State) : (leaveContext s).ctr = s.ctr := rfl
@[simp] theorem leaveContext_sched (s : State) : (leaveContext s).sched = s.sched := rfl
@[simp] theorem leaveContext_n (s : State) : (leaveContext s).n = s.n := rfl
@[simp] theorem leaveContext_buf (s : State) : (leaveContext s).buf = s.buf := rfl
@[simp] theorem leaveContext_context (s : State) : (leaveContext s).context = .main := rfl
@[simp] theorem leaveContext_respMain (s : State) : (leaveContext s).respMain = s.respMain := rfl
@[simp] theorem leaveContext_respIrq (s : State) : (leaveContext s).respIrq = s.respIrq := rfl
@[simp] theorem leaveContext_script (s : State) : (leaveContext s).script = s.script := rfl

@[simp] theorem endTransaction_twAddr (r : TwResult) (s : State) : (endTransaction r s).twAddr = s.twAddr := rfl
@[simp] theorem endTransaction_twRemaining (r : TwResult) (s : State) : (endTransaction r s).twRemaining = s.twRemaining := rfl
@[simp] theorem endTransaction_twCursor (r : TwResult) (s : State) : (endTransaction r s).twCursor = s.twCursor := rfl
@[simp] theorem endTransaction_twResult (r : TwResult) (s : State) : (endTransaction r s).twResult = r := rfl
@[simp] theorem endTransaction_twImm (r : TwResult) (s : State) : (endTransaction r s).twImm = s.twImm := rfl
@[simp] theorem endTransaction_twSrc (r : TwResult) (s : State) : (endTransaction r s).twSrc = s.twSrc := rfl
@[simp] theorem endTransaction_twPhase (r : TwResult) (s : State) : (endTransaction r s).twPhase = s.twPhase := rfl
@[simp] theorem endTransaction_twStatus (r : TwResult) (s : State) : (endTransaction r s).twStatus = s.twStatus := rfl
@[simp] theorem endTransaction_twData (r : TwResult) (s : State) : (endTransaction r s).twData = s.twData := rfl
@[simp] theorem endTransaction_twCtrl (r : TwResult) (s : State) : (endTransaction r s).twCtrl = s.twCtrl := rfl
@[simp] theorem endTransaction_twBitrate (r : TwResult) (s : State) : (endTransaction r s).twBitrate = s.twBitrate := rfl
@[simp] theorem endTransaction_twOwnaddr (r : TwResult) (s : State) : (endTransaction r s).twOwnaddr = s.twOwnaddr := rfl
@[simp] theorem endTransaction_st (r : TwResult) (s : State) : (endTransaction r s).st = s.st := rfl
@[simp] theorem endTransaction_rk (r : TwResult) (s : State) : (endTransaction r s).rk = s.rk := rfl
@[simp] theorem endTransaction_rcon (r : TwResult) (s : State) : (endTransaction r s).rcon = s.rcon := rfl
@[simp] theorem endTransaction_round (r : TwResult) (s : State) : (endTransaction r s).round = s.round := rfl
@[simp] theorem endTransaction_ctr (r : TwResult) (s : State) : (endTransaction r s).ctr = s.ctr := rfl
@[simp] theorem endTransaction_sched (r : TwResult) (s : State) : (endTransaction r s).sched = s.sched := rfl
@[simp] theorem endTransaction_n (r : TwResult) (s : State) : (endTransaction r s).n = s.n := rfl
@[simp] theorem endTransaction_buf (r : TwResult) (s : State) : (endTransaction r s).buf = s.buf := rfl
@[simp] theorem endTransaction_context (r : TwResult) (s : State) : (endTransaction r s).context = s.context := rfl
@[simp] theorem endTransaction_respMain (r : TwResult) (s : State) : (endTransaction r s).respMain = s.respMain := rfl
@[simp] theorem endTransaction_respIrq (r : TwResult) (s : State) : (endTransaction r s).respIrq = s.respIrq := rfl
@[simp] theorem endTransaction_script (r : TwResult) (s : State) : (endTransaction r s).script = s.script := rfl

@[simp] theorem countByte_twAddr (s : State) : (countByte s).twAddr = s.twAddr := rfl
@[simp] theorem countByte_twRemaining (s : State) : (countByte s).twRemaining = s.twRemaining - 1 := rfl
@[simp] theorem countByte_twCursor (s : State) : (countByte s).twCursor = addrAdd s.twCursor 1 := rfl
@[simp] theorem countByte_twResult (s : State) : (countByte s).twResult = s.twResult := rfl
@[simp] theorem countByte_twImm (s : State) : (countByte s).twImm = s.twImm := rfl
@[simp] theorem countByte_twSrc (s : State) : (countByte s).twSrc = s.twSrc := rfl
@[simp] theorem countByte_twPhase (s : State) : (countByte s).twPhase = s.twPhase := rfl
@[simp] theorem countByte_twStatus (s : State) : (countByte s).twStatus = s.twStatus := rfl
@[simp] theorem countByte_twData (s : State) : (countByte s).twData = s.twData := rfl
@[simp] theorem countByte_twCtrl (s : State) : (countByte s).twCtrl = s.twCtrl := rfl
@[simp] theorem countByte_twBitrate (s : State) : (countByte s).twBitrate = s.twBitrate := rfl
@[simp] theorem countByte_twOwnaddr (s : State) : (countByte s).twOwnaddr = s.twOwnaddr := rfl
@[simp] theorem countByte_st (s : State) : (countByte s).st = s.st := rfl
@[simp] theorem countByte_rk (s : State) : (countByte s).rk = s.rk := rfl
@[simp] theorem countByte_rcon (s : State) : (countByte s).rcon = s.rcon := rfl
@[simp] theorem countByte_round (s : State) : (countByte s).round = s.round := rfl
@[simp] theorem countByte_ctr (s : State) : (countByte s).ctr = s.ctr := rfl
@[simp] theorem countByte_sched (s : State) : (countByte s).sched = s.sched := rfl
@[simp] theorem countByte_n (s : State) : (countByte s).n = s.n := rfl
@[simp] theorem countByte_buf (s : State) : (countByte s).buf = s.buf := rfl
@[simp] theorem countByte_context (s : State) : (countByte s).context = s.context := rfl
@[simp] theorem countByte_respMain (s : State) : (countByte s).respMain = s.respMain := rfl
@[simp] theorem countByte_respIrq (s : State) : (countByte s).respIrq = s.respIrq := rfl
@[simp] theorem countByte_script (s : State) : (countByte s).script = s.script := rfl

@[simp] theorem periphStopComplete_twAddr (s : State) : (periphStopComplete s).twAddr = s.twAddr := rfl
@[simp] theorem periphStopComplete_twRemaining (s : State) : (periphStopComplete s).twRemaining = s.twRemaining := rfl
@[simp] theorem periphStopComplete_twCursor (s : State) : (periphStopComplete s).twCursor = s.twCursor := rfl
@[simp] theorem periphStopComplete_twResult (s : State) : (periphStopComplete s).twResult = s.twResult := rfl
@[simp] theorem periphStopComplete_twImm (s : State) : (periphStopComplete s).twImm = s.twImm := rfl
@[simp] theorem periphStopComplete_twSrc (s : State) : (periphStopComplete s).twSrc = s.twSrc := rfl
@[simp] theorem periphStopComplete_twPhase (s : State) : (periphStopComplete s).twPhase = s.twPhase := rfl
@[simp] theorem periphStopComplete_twStatus (s : State) : (periphStopComplete s).twStatus = s.twStatus := rfl
@[simp] theorem periphStopComplete_twData (s : State) : (periphStopComplete s).twData = s.twData := rfl
@[simp] theorem periphStopComplete_twCtrl (s : State) : (periphStopComplete s).twCtrl = clearBit s.twCtrl Config.ctrlSto := rfl
@[simp] theorem periphStopComplete_twBitrate (s : State) : (periphStopComplete s).twBitrate = s.twBitrate := rfl
@[simp] theorem periphStopComplete_twOwnaddr (s : State) : (periphStopComplete s).twOwnaddr = s.twOwnaddr := rfl
@[simp] theorem periphStopComplete_st (s : State) : (periphStopComplete s).st = s.st := rfl
@[simp] theorem periphStopComplete_rk (s : State) : (periphStopComplete s).rk = s.rk := rfl
@[simp] theorem periphStopComplete_rcon (s : State) : (periphStopComplete s).rcon = s.rcon := rfl
@[simp] theorem periphStopComplete_round (s : State) : (periphStopComplete s).round = s.round := rfl
@[simp] theorem periphStopComplete_ctr (s : State) : (periphStopComplete s).ctr = s.ctr := rfl
@[simp] theorem periphStopComplete_sched (s : State) : (periphStopComplete s).sched = s.sched := rfl
@[simp] theorem periphStopComplete_n (s : State) : (periphStopComplete s).n = s.n := rfl
@[simp] theorem periphStopComplete_buf (s : State) : (periphStopComplete s).buf = s.buf := rfl
@[simp] theorem periphStopComplete_context (s : State) : (periphStopComplete s).context = s.context := rfl
@[simp] theorem periphStopComplete_respMain (s : State) : (periphStopComplete s).respMain = s.respMain := rfl
@[simp] theorem periphStopComplete_respIrq (s : State) : (periphStopComplete s).respIrq = s.respIrq := rfl
@[simp] theorem periphStopComplete_script (s : State) : (periphStopComplete s).script = s.script := rfl

@[simp] theorem respond_twAddr (r : Response) (s : State) : (respond r s).twAddr = s.twAddr := by unfold respond; split <;> rfl
@[simp] theorem respond_twRemaining (r : Response) (s : State) : (respond r s).twRemaining = s.twRemaining := by unfold respond; split <;> rfl
@[simp] theorem respond_twCursor (r : Response) (s : State) : (respond r s).twCursor = s.twCursor := by unfold respond; split <;> rfl
@[simp] theorem respond_twResult (r : Response) (s : State) : (respond r s).twResult = s.twResult := by unfold respond; split <;> rfl
@[simp] theorem respond_twImm (r : Response) (s : State) : (respond r s).twImm = s.twImm := by unfold respond; split <;> rfl
@[simp] theorem respond_twSrc (r : Response) (s : State) : (respond r s).twSrc = s.twSrc := by unfold respond; split <;> rfl
@[simp] theorem respond_twPhase (r : Response) (s : State) : (respond r s).twPhase = s.twPhase := by unfold respond; split <;> rfl
@[simp] theorem respond_twStatus (r : Response) (s : State) : (respond r s).twStatus = s.twStatus := by unfold respond; split <;> rfl
@[simp] theorem respond_twData (r : Response) (s : State) : (respond r s).twData = s.twData := by unfold respond; split <;> rfl
@[simp] theorem respond_twCtrl (r : Response) (s : State) : (respond r s).twCtrl = s.twCtrl := by unfold respond; split <;> rfl
@[simp] theorem respond_twBitrate (r : Response) (s : State) : (respond r s).twBitrate = s.twBitrate := by unfold respond; split <;> rfl
@[simp] theorem respond_twOwnaddr (r : Response) (s : State) : (respond r s).twOwnaddr = s.twOwnaddr := by unfold respond; split <;> rfl
@[simp] theorem respond_st (r : Response) (s : State) : (respond r s).st = s.st := by unfold respond; split <;> rfl
@[simp] theorem respond_rk (r : Response) (s : State) : (respond r s).rk = s.rk := by unfold respond; split <;> rfl
@[simp] theorem respond_rcon (r : Response) (s : State) : (respond r s).rcon = s.rcon := by unfold respond; split <;> rfl
@[simp] theorem respond_round (r : Response) (s : State) : (respond r s).round = s.round := by unfold respond; split <;> rfl
@[simp] theorem respond_ctr (r : Response) (s : State) : (respond r s).ctr = s.ctr := by unfold respond; split <;> rfl
@[simp] theorem respond_sched (r : Response) (s : State) : (respond r s).sched = s.sched := by unfold respond; split <;> rfl
@[simp] theorem respond_n (r : Response) (s : State) : (respond r s).n = s.n := by unfold respond; split <;> rfl
@[simp] theorem respond_buf (r : Response) (s : State) : (respond r s).buf = s.buf := by unfold respond; split <;> rfl
@[simp] theorem respond_context (r : Response) (s : State) : (respond r s).context = s.context := by unfold respond; split <;> rfl
@[simp] theorem respond_script (r : Response) (s : State) : (respond r s).script = s.script := by unfold respond; split <;> rfl

@[simp] theorem mainPoll_twAddr (s : State) : (mainPoll s).twAddr = s.twAddr := by unfold mainPoll; split <;> (try split) <;> rfl
@[simp] theorem mainPoll_twRemaining (s : State) : (mainPoll s).twRemaining = s.twRemaining := by unfold mainPoll; split <;> (try split) <;> rfl
@[simp] theorem mainPoll_twCursor (s : State) : (mainPoll s).twCursor = s.twCursor := by unfold mainPoll; split <;> (try split) <;> rfl
@[simp] theorem mainPoll_twResult (s : State) : (mainPoll s).twResult = s.twResult := by unfold mainPoll; split <;> (try split) <;> rfl
@[simp] theorem mainPoll_twImm (s : State) : (mainPoll s).twImm = s.twImm := by unfold mainPoll; split <;> (try split) <;> rfl
@[simp] theorem mainPoll_twSrc (s : State) : (mainPoll s).twSrc = s.twSrc := by unfold mainPoll; split <;> (try split) <;> rfl
@[simp] theorem mainPoll_twStatus (s : State) : (mainPoll s).twStatus = s.twStatus := by unfold mainPoll; split <;> (try split) <;> rfl
@[simp] theorem mainPoll_twData (s : State) : (mainPoll s).twData = s.twData := by unfold mainPoll; split <;> (try split) <;> rfl
@[simp] theorem mainPoll_twCtrl (s : State) : (mainPoll s).twCtrl = s.twCtrl := by unfold mainPoll; split <;> (try split) <;> rfl
@[simp] theorem mainPoll_twBitrate (s : State) : (mainPoll s).twBitrate = s.twBitrate := by unfold mainPoll; split <;> (try split) <;> rfl
@[simp] theorem mainPoll_twOwnaddr (s : State) : (mainPoll s).twOwnaddr = s.twOwnaddr := by unfold mainPoll; split <;> (try split) <;> rfl
@[simp] theorem mainPoll_st (s : State) : (mainPoll s).st = s.st := by unfold mainPoll; split <;> (try split) <;> rfl
@[simp] theorem mainPoll_rk (s : State) : (mainPoll s).rk = s.rk := by unfold mainPoll; split <;> (try split) <;> rfl
@[simp] theorem mainPoll_rcon (s : State) : (mainPoll s).rcon = s.rcon := by unfold mainPoll; split <;> (try split) <;> rfl
@[simp] theorem mainPoll_round (s : State) : (mainPoll s).round = s.round := by unfold mainPoll; split <;> (try split) <;> rfl
@[simp] theorem mainPoll_ctr (s : State) : (mainPoll s).ctr = s.ctr := by unfold mainPoll; split <;> (try split) <;> rfl
@[simp] theorem mainPoll_sched (s : State) : (mainPoll s).sched = s.sched := by unfold mainPoll; split <;> (try split) <;> rfl
@[simp] theorem mainPoll_n (s : State) : (mainPoll s).n = s.n := by unfold mainPoll; split <;> (try split) <;> rfl
@[simp] theorem mainPoll_buf (s : State) : (mainPoll s).buf = s.buf := by unfold mainPoll; split <;> (try split) <;> rfl
@[simp] theorem mainPoll_context (s : State) : (mainPoll s).context = s.context := by unfold mainPoll; split <;> (try split) <;> rfl
@[simp] theorem mainPoll_respIrq (s : State) : (mainPoll s).respIrq = s.respIrq := by unfold mainPoll; split <;> (try split) <;> rfl
@[simp] theorem mainPoll_script (s : State) : (mainPoll s).script = s.script := by unfold mainPoll; split <;> (try split) <;> rfl

/-- The answer goes to the context that issued the command. -/
@[simp] theorem respond_respMain (r : Response) (s : State) :
    (respond r s).respMain = if s.context = .main then some r else s.respMain := by
  unfold respond; split <;> simp_all

@[simp] theorem respond_respIrq (r : Response) (s : State) :
    (respond r s).respIrq = if s.context = .main then s.respIrq else some r := by
  unfold respond; split <;> simp_all

/-- A read of `BUF` depends on the memory only. -/
theorem readByte_congr {s t : State} (h : t.buf = s.buf) (a : Addr) : readByte t a = readByte s a := by
  simp [readByte, h]

@[simp] theorem mapNext_next (f : State → State) (s : State) : mapNext f (.next s) = .next (f s) := rfl
@[simp] theorem mapNext_fault (f : State → State) (r : Fault) : mapNext f (.fault r) = .fault r := rfl
@[simp] theorem mapNext_refused (f : State → State) (r : Refusal) :
    mapNext f (.refused r) = .refused r := rfl

/-- What going on from an outcome can give: a next state comes from a next state. -/
theorem mapNext_eq_next {f : State → State} {o : Outcome} {t : State} (h : mapNext f o = .next t) :
    ∃ u, o = .next u ∧ t = f u := by
  cases o with
  | next u => exact ⟨u, rfl, by simpa [mapNext] using h.symm⟩
  | fault r => simp [mapNext] at h
  | refused r => simp [mapNext] at h

end Sys2Proof.Machine
end

