-- ==== Sys2Proof/Laws/Ctrl.lean ====
section
/-! SUPPORT. The control register: what each action writes (spec/10_state.md R36) and what each bit of
`TW_CTRL` reads after it (R37, R284, R293), and the result codes (R25). -/

namespace Sys2Proof.Machine

/-- The default bit positions (R33). -/
theorem ctrlBit_values :
    Config.ctrlInt = 7 ∧ Config.ctrlEa = 6 ∧ Config.ctrlSta = 5 ∧ Config.ctrlSto = 4 ∧
    Config.ctrlEn = 2 ∧ Config.ctrlIe = 0 := by decide

/-- The six bytes of R36's table. -/
theorem actionByte_values :
    actionByte .enable = some 0x05 ∧ actionByte .start = some 0xA5 ∧
    actionByte .continue_ = some 0x85 ∧ actionByte .continueAck = some 0xC5 ∧
    actionByte .stop = some 0x95 ∧ actionByte .none = Option.none := by decide

/-- What `TW_CTRL` reads after each action that writes, whatever it read before (R36, R37). -/
theorem ctrlAfter_values (c : Byte) :
    ctrlAfter .start c = 0x25 ∧ ctrlAfter .continue_ c = 0x05 ∧ ctrlAfter .continueAck c = 0x45 ∧
    ctrlAfter .stop c = 0x15 ∧ ctrlAfter .none c = c &&& 0x7F := by
  revert c; decide +kernel

/-- After every action but `ACT_ENABLE` no event is pending (R284). -/
theorem int_ctrlAfter {a : Action} (h : a ≠ .enable) (c : Byte) :
    ctrlIntSet (ctrlAfter a c) = false := by
  revert c; cases a
  case enable => exact absurd rfl h
  all_goals decide +kernel

/-- `ACT_ENABLE` "does not acknowledge an event" (R130). -/
theorem int_ctrlAfter_enable (c : Byte) : ctrlIntSet (ctrlAfter .enable c) = ctrlIntSet c := by
  revert c; decide +kernel

/-- Every action that writes sets `EN` and `IE` (R36). -/
theorem enabled_ctrlAfter {a : Action} (h : a ≠ .none) (c : Byte) :
    ctrlEnSet (ctrlAfter a c) = true ∧ ctrlIeSet (ctrlAfter a c) = true := by
  revert c; cases a
  case none => exact absurd rfl h
  all_goals decide +kernel

/-- Of the actions that write, only `ACT_STOP` requests a STOP (R36). -/
theorem sto_ctrlAfter {a : Action} (h : a ≠ .none) (c : Byte) :
    ctrlStoSet (ctrlAfter a c) = decide (a = .stop) := by
  revert c; cases a
  case none => exact absurd rfl h
  all_goals decide +kernel

/-- `ACT_NONE` clears the request and nothing else. -/
theorem ctrlAfter_none (c : Byte) : ctrlAfter .none c = clearBit c Config.ctrlInt := rfl

/-- Every action leaves the unused bits as the block writes them (R33). -/
theorem unused_ctrlAfter (a : Action) (c : Byte) (h : ctrlUnusedClear c = true) :
    ctrlUnusedClear (ctrlAfter a c) = true := by
  revert c; cases a <;> decide +kernel

/-- `ACT_NONE` leaves every bit but the request as it reads (R36, R37). -/
theorem kept_ctrlAfter_none (c : Byte) :
    ctrlEnSet (ctrlAfter .none c) = ctrlEnSet c ∧ ctrlIeSet (ctrlAfter .none c) = ctrlIeSet c ∧
    ctrlStoSet (ctrlAfter .none c) = ctrlStoSet c ∧ ctrlEaSet (ctrlAfter .none c) = ctrlEaSet c ∧
    ctrlStaSet (ctrlAfter .none c) = ctrlStaSet c := by
  revert c; decide +kernel

/-- Raising the request changes that bit only (R291). -/
theorem kept_setInt (c : Byte) :
    ctrlIntSet (setBit c Config.ctrlInt) = true ∧
    ctrlEnSet (setBit c Config.ctrlInt) = ctrlEnSet c ∧ ctrlIeSet (setBit c Config.ctrlInt) = ctrlIeSet c ∧
    ctrlStoSet (setBit c Config.ctrlInt) = ctrlStoSet c ∧
    ctrlUnusedClear (setBit c Config.ctrlInt) = ctrlUnusedClear c := by
  revert c; decide +kernel

/-- The stop-complete step changes `STO` only (R293). -/
theorem kept_clearSto (c : Byte) :
    ctrlStoSet (clearBit c Config.ctrlSto) = false ∧
    ctrlEnSet (clearBit c Config.ctrlSto) = ctrlEnSet c ∧ ctrlIeSet (clearBit c Config.ctrlSto) = ctrlIeSet c ∧
    ctrlIntSet (clearBit c Config.ctrlSto) = ctrlIntSet c ∧
    ctrlUnusedClear (clearBit c Config.ctrlSto) = ctrlUnusedClear c := by
  revert c; decide +kernel

/-- The byte with one bit set, bit by bit. -/
theorem getLsbD_bitAt (pos i : Nat) : (bitAt pos).getLsbD i = (decide (i < 8) && decide (pos = i)) := by
  simp [bitAt, BitVec.getLsbD_twoPow]
  by_cases h : pos = i
  · subst h; simp
  · simp [h]

/-- Clearing a bit leaves the others as they read. -/
theorem getLsbD_clearBit (c : Byte) (pos i : Nat) :
    (clearBit c pos).getLsbD i = (c.getLsbD i && !decide (pos = i)) := by
  by_cases hi : i < 8
  · simp only [clearBit, BitVec.getLsbD_and, BitVec.getLsbD_not, getLsbD_bitAt, hi, decide_true, Bool.true_and]
  · simp [clearBit, hi, BitVec.getLsbD_of_ge c i (Nat.le_of_not_lt hi)]

/-- Setting a bit leaves the others as they read. -/
theorem getLsbD_setBit (c : Byte) (pos i : Nat) (hi : i < 8) :
    (setBit c pos).getLsbD i = (c.getLsbD i || decide (pos = i)) := by
  simp only [setBit, BitVec.getLsbD_or, getLsbD_bitAt, hi, decide_true, Bool.true_and]

/-- The three result codes are pairwise different and only `SUCCESS` is zero (R25). -/
theorem code_eq_zero_iff (r : TwResult) : r.code = 0 ↔ r = .success := by
  have hf : Config.anyFailure ≠ 0 := by
    unfold Config.anyFailure; split
    · decide
    · assumption
  cases r
  · simp only [TwResult.code, reduceCtorEq, iff_false]
    unfold Config.anyPending
    split
    · split <;> decide
    · next h => exact fun h0 => h (Or.inl h0)
  · simp [TwResult.code]
  · simpa [TwResult.code] using hf

theorem code_injective {r r' : TwResult} (h : r.code = r'.code) : r = r' := by
  have hpf : Config.anyPending ≠ Config.anyFailure := by
    unfold Config.anyPending
    split
    · split
      · next h => rw [h]; decide
      · next h => exact fun e => h e.symm
    · next h => exact fun e => h (Or.inr e)
  have hp : Config.anyPending ≠ 0 := fun e => absurd ((code_eq_zero_iff .pending).1 e) (by decide)
  have hf : Config.anyFailure ≠ 0 := fun e => absurd ((code_eq_zero_iff .failure).1 e) (by decide)
  cases r <;> cases r'
  case pending.pending | success.success | failure.failure => rfl
  case pending.success => exact absurd h hp
  case pending.failure => exact absurd h hpf
  case success.pending => exact absurd h.symm hp
  case success.failure => exact absurd h.symm hf
  case failure.pending => exact absurd h.symm hpf
  case failure.success => exact absurd h hf

end Sys2Proof.Machine
end

