-- ==== Sys2Proof/Laws/Decode.lean ====
section
/-! SUPPORT. The laws of the operand fields: the bytes of a field read back as the field, and whatever reads as
fields is their bytes. With them no proof about the decoder unfolds a byte. -/

namespace Sys2Proof

theorem takeBytes_lowBytes (k v : Nat) (rest : List Byte) (h : v < 256 ^ k) :
    takeBytes k (lowBytes k v ++ rest) = some (v, rest) := by
  induction k generalizing v with
  | zero => simp [takeBytes, lowBytes]; omega
  | succ k ih =>
    have hv : v / 256 < 256 ^ k := by rw [Nat.div_lt_iff_lt_mul (by omega)]; rwa [← Nat.pow_succ]
    simp only [lowBytes, List.cons_append, takeBytes, ih _ hv, BitVec.toNat_ofNat]
    congr 2
    omega

theorem takeBytes_eq_some {k v : Nat} {bytes rest : List Byte} (h : takeBytes k bytes = some (v, rest)) :
    bytes = lowBytes k v ++ rest := by
  induction k generalizing v bytes with
  | zero => simpa [takeBytes, lowBytes] using (Prod.mk.inj (Option.some.inj h)).2
  | succ k ih =>
    cases bytes with
    | nil => cases h
    | cons b bytes =>
      simp only [takeBytes] at h
      split at h
      · cases h
      · next v' rest' h' =>
        obtain ⟨rfl, rfl⟩ := Prod.mk.inj (Option.some.inj h)
        have hb := b.isLt
        have hdiv : (b.toNat + 256 * v') / 256 = v' := by omega
        have hmod : BitVec.ofNat 8 (b.toNat + 256 * v') = b := by
          apply BitVec.eq_of_toNat_eq
          simp only [BitVec.toNat_ofNat]
          omega
        rw [lowBytes, hdiv, hmod, List.cons_append, ← ih h']

/-- A field's width fits its bytes. -/
theorem two_pow_le_fieldLen (w : Nat) : 2 ^ w ≤ 256 ^ fieldLen w := by
  rw [show (256 : Nat) = 2 ^ 8 from rfl, ← Nat.pow_mul]
  exact Nat.pow_le_pow_right (by omega) (by unfold fieldLen; omega)

/-- The bytes of a field, and whatever follows, read as the field. -/
@[simp] theorem takeField_fieldBytes {w : Nat} (v : BitVec w) (op : Byte) (rest : List Byte)
    (next : BitVec w → List Byte → Except DecodeError Instr) :
    takeField w op (fieldBytes v ++ rest) next = next v rest := by
  unfold takeField fieldBytes
  rw [takeBytes_lowBytes _ _ _ (Nat.lt_of_lt_of_le v.isLt (two_pow_le_fieldLen w))]
  simp [v.isLt]

/-- The same for the last field. -/
@[simp] theorem takeField_fieldBytes_nil {w : Nat} (v : BitVec w) (op : Byte)
    (next : BitVec w → List Byte → Except DecodeError Instr) :
    takeField w op (fieldBytes v) next = next v [] := by
  simpa using takeField_fieldBytes v op [] next

/-- What reads as a field and more is the field's bytes and more. -/
theorem takeField_eq_ok {w : Nat} {op : Byte} {bytes : List Byte} {i : Instr}
    {next : BitVec w → List Byte → Except DecodeError Instr} (h : takeField w op bytes next = .ok i) :
    ∃ v rest, bytes = fieldBytes v ++ rest ∧ next v rest = .ok i := by
  unfold takeField at h
  split at h
  · cases h
  · next v rest hv =>
    split at h
    · next hlt =>
      refine ⟨BitVec.ofNat w v, rest, ?_, h⟩
      rw [takeBytes_eq_some hv, fieldBytes, BitVec.toNat_ofNat, Nat.mod_eq_of_lt hlt]
    · cases h

/-- Nothing is left over after the operands. -/
theorem operandsEnd_eq_ok {op : Byte} {i j : Instr} {bytes : List Byte} (h : operandsEnd op i bytes = .ok j) :
    bytes = [] ∧ j = i := by
  cases bytes with
  | nil => exact ⟨rfl, (Except.ok.inj h).symm⟩
  | cons b bytes => cases h

/-! ### What each operand shape accepts -/

theorem operandsByte_eq_ok {op : Byte} {i : Byte → Instr} {bytes : List Byte} {j : Instr}
    (h : operandsByte op i bytes = .ok j) : ∃ b : Byte, bytes = fieldBytes b ∧ j = i b := by
  obtain ⟨b, rest, rfl, h1⟩ := takeField_eq_ok h
  obtain ⟨rfl, rfl⟩ := operandsEnd_eq_ok h1
  exact ⟨b, by simp, rfl⟩

theorem operandsPtr_eq_ok {op : Byte} {i : Addr → Instr} {bytes : List Byte} {j : Instr}
    (h : operandsPtr op i bytes = .ok j) : ∃ p : Addr, bytes = fieldBytes p ∧ j = i p := by
  obtain ⟨p, rest, rfl, h1⟩ := takeField_eq_ok h
  obtain ⟨rfl, rfl⟩ := operandsEnd_eq_ok h1
  exact ⟨p, by simp, rfl⟩

theorem operandsByteByte_eq_ok {op : Byte} {i : Byte → Byte → Instr} {bytes : List Byte} {j : Instr}
    (h : operandsByteByte op i bytes = .ok j) :
    ∃ a b : Byte, bytes = fieldBytes a ++ fieldBytes b ∧ j = i a b := by
  obtain ⟨a, rest, rfl, h1⟩ := takeField_eq_ok h
  obtain ⟨b, rfl, rfl⟩ := operandsByte_eq_ok h1
  exact ⟨a, b, rfl, rfl⟩

theorem operandsPtrPtr_eq_ok {op : Byte} {i : Addr → Addr → Instr} {bytes : List Byte} {j : Instr}
    (h : operandsPtrPtr op i bytes = .ok j) :
    ∃ p q : Addr, bytes = fieldBytes p ++ fieldBytes q ∧ j = i p q := by
  obtain ⟨p, rest, rfl, h1⟩ := takeField_eq_ok h
  obtain ⟨q, rfl, rfl⟩ := operandsPtr_eq_ok h1
  exact ⟨p, q, rfl, rfl⟩

theorem operandsPtrByte_eq_ok {op : Byte} {i : Addr → Byte → Instr} {bytes : List Byte} {j : Instr}
    (h : operandsPtrByte op i bytes = .ok j) :
    ∃ (p : Addr) (b : Byte), bytes = fieldBytes p ++ fieldBytes b ∧ j = i p b := by
  obtain ⟨p, rest, rfl, h1⟩ := takeField_eq_ok h
  obtain ⟨b, rfl, rfl⟩ := operandsByte_eq_ok h1
  exact ⟨p, b, rfl, rfl⟩

theorem operandsCtr_eq_ok {op : Byte} {i : Addr → Addr → Count → Addr → Instr} {bytes : List Byte} {j : Instr}
    (h : operandsCtr op i bytes = .ok j) :
    ∃ (s c : Addr) (n : Count) (d : Addr),
      bytes = fieldBytes s ++ (fieldBytes c ++ (fieldBytes n ++ fieldBytes d)) ∧ j = i s c n d := by
  obtain ⟨s, _, rfl, h1⟩ := takeField_eq_ok h
  obtain ⟨c, _, rfl, h2⟩ := takeField_eq_ok h1
  obtain ⟨n, _, rfl, h3⟩ := takeField_eq_ok h2
  obtain ⟨d, rfl, rfl⟩ := operandsPtr_eq_ok h3
  exact ⟨s, c, n, d, rfl, rfl⟩

theorem operandsAddrByte_eq_ok {op : Byte} {i : BitVec 7 → Byte → Instr} {bytes : List Byte} {j : Instr}
    (h : operandsAddrByte op i bytes = .ok j) :
    ∃ (a : BitVec 7) (b : Byte), bytes = fieldBytes a ++ fieldBytes b ∧ j = i a b := by
  obtain ⟨a, rest, rfl, h1⟩ := takeField_eq_ok h
  obtain ⟨b, rfl, rfl⟩ := operandsByte_eq_ok h1
  exact ⟨a, b, rfl, rfl⟩

theorem operandsAddrLenPtr_eq_ok {op : Byte} {i : BitVec 7 → Len → Addr → Instr} {bytes : List Byte} {j : Instr}
    (h : operandsAddrLenPtr op i bytes = .ok j) :
    ∃ (a : BitVec 7) (n : Len) (p : Addr),
      bytes = fieldBytes a ++ (fieldBytes n ++ fieldBytes p) ∧ j = i a n p := by
  obtain ⟨a, _, rfl, h1⟩ := takeField_eq_ok h
  obtain ⟨n, _, rfl, h2⟩ := takeField_eq_ok h1
  obtain ⟨p, rfl, rfl⟩ := operandsPtr_eq_ok h2
  exact ⟨a, n, p, rfl, rfl⟩

end Sys2Proof
end

