-- ==== Sys2Proof/Laws/Memory.lean ====
section
/-! SUPPORT. The laws of the buffer space: a read after a write, what a write leaves alone, the canonical
form kept by every memory operation, and the same for runs of bytes. -/

namespace Sys2Proof.Machine

theorem Memory.wfFrom_cons {lo : Option Nat} {k : Nat} {v : Byte} {m : Memory} :
    Memory.wfFrom lo ((k, v) :: m) = true ↔
      (∀ l, lo = some l → l < k) ∧ k < 2 ^ 16 ∧ v ≠ Memory.unlisted ∧
        Memory.wfFrom (some k) m = true := by
  cases lo <;> simp [Memory.wfFrom, and_assoc]

theorem Memory.wfFrom_mono {m : Memory} {lo : Option Nat} {l : Nat}
    (h : Memory.wfFrom (some l) m = true) (hlo : ∀ l', lo = some l' → l' ≤ l) :
    Memory.wfFrom lo m = true := by
  cases m with
  | nil => cases lo <;> rfl
  | cons c m =>
    obtain ⟨k, v⟩ := c
    rw [Memory.wfFrom_cons] at h ⊢
    refine ⟨fun l' hl' => ?_, h.2⟩
    have := hlo l' hl'
    have := h.1 l rfl
    omega

/-- Below its first address a canonical memory lists nothing. -/
theorem Memory.read_below {m : Memory} {l a : Nat} (h : Memory.wfFrom (some l) m = true)
    (ha : a ≤ l) : Memory.read m a = Memory.unlisted := by
  induction m generalizing l with
  | nil => rfl
  | cons c m ih =>
    obtain ⟨k, v⟩ := c
    rw [Memory.wfFrom_cons] at h
    have hk := h.1 l rfl
    have hne : k ≠ a := by omega
    simp only [Memory.read, hne, if_false]
    exact ih h.2.2.2 (by omega)

/-- A read after a write to the same address gives the byte written, in a canonical memory. -/
theorem Memory.read_write_same {m : Memory} {lo : Option Nat} (a : Nat) (b : Byte)
    (h : Memory.wfFrom lo m = true) : Memory.read (Memory.write m a b) a = b := by
  induction m generalizing lo with
  | nil =>
    by_cases hb : b = Memory.unlisted <;> simp [Memory.write, Memory.read, hb]
  | cons c m ih =>
    obtain ⟨k, v⟩ := c
    rw [Memory.wfFrom_cons] at h
    by_cases hlt : a < k
    · by_cases hb : b = Memory.unlisted
      · have hne : k ≠ a := by omega
        simp only [Memory.write, hlt, hb, if_true, Memory.read, hne, if_false]
        exact Memory.read_below h.2.2.2 (by omega)
      · simp [Memory.write, hlt, hb, Memory.read]
    · by_cases heq : a = k
      · by_cases hb : b = Memory.unlisted
        · simp only [Memory.write, heq, hb, if_true, lt_irrefl, if_false]
          exact Memory.read_below h.2.2.2 (le_refl k)
        · simp [Memory.write, heq, hb, Memory.read]
      · have hne : k ≠ a := fun e => heq e.symm
        simp only [Memory.write, hlt, heq, if_false, Memory.read, hne]
        exact ih h.2.2.2

/-- A write leaves every other address alone, in any memory. -/
theorem Memory.read_write_other (m : Memory) {a a' : Nat} (b : Byte) (h : a' ≠ a) :
    Memory.read (Memory.write m a b) a' = Memory.read m a' := by
  induction m with
  | nil =>
    have : a ≠ a' := fun e => h e.symm
    by_cases hb : b = Memory.unlisted <;> simp [Memory.write, Memory.read, hb, this]
  | cons c m ih =>
    obtain ⟨k, v⟩ := c
    have ha : a ≠ a' := fun e => h e.symm
    by_cases hlt : a < k
    · by_cases hb : b = Memory.unlisted <;> simp [Memory.write, hlt, hb, Memory.read, ha]
    · by_cases heq : a = k
      · subst heq
        by_cases hb : b = Memory.unlisted <;> simp [Memory.write, hb, Memory.read, ha]
      · simp only [Memory.write, hlt, heq, if_false, Memory.read, ih]

/-- A write keeps the canonical form. -/
theorem Memory.wfFrom_write {m : Memory} {lo : Option Nat} {a : Nat} (b : Byte)
    (h : Memory.wfFrom lo m = true) (hlo : ∀ l, lo = some l → l < a) (ha : a < 2 ^ 16) :
    Memory.wfFrom lo (Memory.write m a b) = true := by
  induction m generalizing lo with
  | nil =>
    by_cases hb : b = Memory.unlisted
    · simpa [Memory.write, hb] using h
    · simp only [Memory.write, hb, if_false]
      exact Memory.wfFrom_cons.2 ⟨hlo, ha, hb, rfl⟩
  | cons c m ih =>
    obtain ⟨k, v⟩ := c
    have h' := Memory.wfFrom_cons.1 h
    by_cases hlt : a < k
    · by_cases hb : b = Memory.unlisted
      · simpa [Memory.write, hlt, hb] using h
      · simp only [Memory.write, hlt, hb, if_true, if_false]
        refine Memory.wfFrom_cons.2 ⟨hlo, ha, hb, Memory.wfFrom_cons.2 ⟨?_, h'.2⟩⟩
        intro l hl
        have : l = a := (Option.some.inj hl).symm
        omega
    · by_cases heq : a = k
      · subst heq
        by_cases hb : b = Memory.unlisted
        · simp only [Memory.write, hb, if_true, lt_irrefl, if_false]
          exact Memory.wfFrom_mono h'.2.2.2 (fun l hl => le_of_lt (hlo l hl))
        · simp only [Memory.write, hb, if_true, lt_irrefl, if_false]
          exact Memory.wfFrom_cons.2 ⟨hlo, ha, hb, h'.2.2.2⟩
      · simp only [Memory.write, hlt, heq, if_false]
        refine Memory.wfFrom_cons.2 ⟨h'.1, h'.2.1, h'.2.2.1, ih h'.2.2.2 ?_⟩
        intro l hl
        have : l = k := (Option.some.inj hl).symm
        omega

/-- Two canonical memories that read alike are the same list. -/
theorem Memory.ext_of_read {m m' : Memory} {lo : Option Nat} (h : Memory.wfFrom lo m = true)
    (h' : Memory.wfFrom lo m' = true) (hr : ∀ a, Memory.read m a = Memory.read m' a) : m = m' := by
  induction m generalizing lo m' with
  | nil =>
    cases m' with
    | nil => rfl
    | cons c m' =>
      obtain ⟨k, v⟩ := c
      have := hr k
      simp only [Memory.read, if_true] at this
      exact absurd this.symm (Memory.wfFrom_cons.1 h').2.2.1
  | cons c m ih =>
    obtain ⟨k, v⟩ := c
    have hc := Memory.wfFrom_cons.1 h
    cases m' with
    | nil =>
      have := hr k
      simp only [Memory.read, if_true] at this
      exact absurd this hc.2.2.1
    | cons c' m' =>
      obtain ⟨k', v'⟩ := c'
      have hc' := Memory.wfFrom_cons.1 h'
      have hkk : k = k' := by
        rcases lt_trichotomy k k' with hlt | heq | hlt
        · have := hr k
          have hne : k' ≠ k := by omega
          simp only [Memory.read, if_true, hne, if_false,
            Memory.read_below hc'.2.2.2 (le_of_lt hlt)] at this
          exact absurd this hc.2.2.1
        · exact heq
        · have := hr k'
          have hne : k ≠ k' := by omega
          simp only [Memory.read, if_true, hne, if_false,
            Memory.read_below hc.2.2.2 (le_of_lt hlt)] at this
          exact absurd this.symm hc'.2.2.1
      subst hkk
      have hv : v = v' := by simpa [Memory.read] using hr k
      subst hv
      refine congrArg _ (ih hc.2.2.2 hc'.2.2.2 fun a => ?_)
      by_cases ha : k = a
      · subst ha
        rw [Memory.read_below hc.2.2.2 (le_refl k), Memory.read_below hc'.2.2.2 (le_refl k)]
      · simpa [Memory.read, ha] using hr a

theorem Memory.wf_write {m : Memory} (a : Addr) (b : Byte) (h : Memory.wf m = true) :
    Memory.wf (Memory.write m a.toNat b) = true :=
  Memory.wfFrom_write b h (by simp) a.isLt

theorem Memory.wf_writeList {m : Memory} (a : Addr) (bs : List Byte) (h : Memory.wf m = true) :
    Memory.wf (Memory.writeList m a bs) = true := by
  induction bs generalizing m a with
  | nil => exact h
  | cons b bs ih => exact ih (addrAdd a 1) (Memory.wf_write a b h)

/-! ### Addresses -/

theorem addrAdd_zero (a : Addr) : addrAdd a 0 = a := by simp [addrAdd]

theorem addrAdd_addrAdd (a : Addr) (i j : Nat) : addrAdd (addrAdd a i) j = addrAdd a (i + j) := by
  simp [addrAdd, BitVec.add_assoc, BitVec.ofNat_add]

/-- How far the address `i` bytes above `a` lies above `a`. -/
theorem addrAdd_sub_toNat (a : Addr) (i : Nat) : (addrAdd a i - a).toNat = i % 2 ^ 16 := by
  simp [addrAdd, BitVec.add_comm a]

/-- An address is its distance above any other. -/
theorem addrAdd_of_sub (a b : Addr) : addrAdd b (a - b).toNat = a := by
  rw [addrAdd, BitVec.ofNat_toNat, BitVec.setWidth_eq]
  ring

/-- What reads at an address after a run of bytes was written from `a` upward. -/
theorem Memory.read_writeList {m : Memory} {a : Addr} {bs : List Byte} (h : Memory.wf m = true)
    (hn : bs.length ≤ 2 ^ 16) (x : Addr) :
    Memory.read (Memory.writeList m a bs) x.toNat =
      if (x - a).toNat < bs.length then bs.getD (x - a).toNat 0 else Memory.read m x.toNat := by
  induction bs generalizing m a with
  | nil => simp [Memory.writeList]
  | cons b bs ih =>
    simp only [List.length_cons] at hn
    have hstep : (x - addrAdd a 1).toNat = if x = a then 2 ^ 16 - 1 else (x - a).toNat - 1 := by
      have h1 : x - addrAdd a 1 = (x - a) - 1 := by simp [addrAdd, BitVec.sub_sub]
      split
      · next hxa => subst hxa; rw [h1]; simp
      · next hxa =>
        rw [h1]
        have : 1 ≤ (x - a).toNat := by
          rcases Nat.eq_zero_or_pos (x - a).toNat with h0 | h0
          · refine absurd ?_ hxa
            have := addrAdd_of_sub x a
            rw [h0, addrAdd_zero] at this
            exact this.symm
          · exact h0
        rw [BitVec.toNat_sub_of_le (by simpa [BitVec.le_def] using this)]
        rfl
    rw [Memory.writeList, ih (Memory.wf_write a b h) (by omega), hstep]
    by_cases hxa : x = a
    · subst hxa
      simp only [if_true, BitVec.sub_self]
      rw [if_neg (by omega), Memory.read_write_same _ _ h]
      simp
    · have h1 : 1 ≤ (x - a).toNat := by
        rcases Nat.eq_zero_or_pos (x - a).toNat with h0 | h0
        · refine absurd ?_ hxa
          have := addrAdd_of_sub x a
          rw [h0, addrAdd_zero] at this
          exact this.symm
        · exact h0
      have hne : x.toNat ≠ a.toNat := fun e => hxa (BitVec.eq_of_toNat_eq e)
      rw [if_neg hxa, Memory.read_write_other _ _ hne]
      obtain ⟨d, hd⟩ : ∃ d, (x - a).toNat = d + 1 := ⟨(x - a).toNat - 1, by omega⟩
      simp [hd]

/-! ### The state's own reads and writes -/

/-- A byte written reads back. -/
theorem readByte_writeByte_same (s : State) (a : Addr) (b : Byte) (h : Memory.wf s.buf = true) :
    readByte (writeByte s a b) a = b :=
  Memory.read_write_same a.toNat b h

/-- A byte written leaves every other byte alone. -/
theorem readByte_writeByte_other (s : State) {a a' : Addr} (b : Byte) (h : a' ≠ a) :
    readByte (writeByte s a b) a' = readByte s a' :=
  Memory.read_write_other s.buf b fun e => h (BitVec.eq_of_toNat_eq e)

/-- What a byte of `BUF` reads as after `MemWrite`. -/
theorem readByte_writeBytes {n : Nat} (s : State) (a : Addr) (v : Bytes n)
    (h : Memory.wf s.buf = true) (hn : n ≤ 2 ^ 16) (x : Addr) :
    readByte (writeBytes s a v) x =
      if (x - a).toNat < n then byteAt v (x - a).toNat else readByte s x := by
  have hl : v.toList.length = n := by simp
  unfold readByte writeBytes
  rw [Memory.read_writeList h (by rw [hl]; exact hn)]
  simp only [hl]
  split
  · next hx =>
    generalize (x - a).toNat = d at hx ⊢
    simp [byteAt, hx]
  · rfl

/-- `MemWrite` stores its bytes and leaves the rest of `BUF` alone. -/
theorem stored_writeBytes {n : Nat} (s : State) (a : Addr) (v : Bytes n)
    (h : Memory.wf s.buf = true) (hn : n ≤ 2 ^ 16) : Stored s (writeBytes s a v) a v := by
  constructor
  · intro i hi
    have hi' : i % 2 ^ 16 = i := Nat.mod_eq_of_lt (by omega)
    rw [readByte_writeBytes s a v h hn, addrAdd_sub_toNat, hi', if_pos hi]
  · intro x hx
    rw [readByte_writeBytes s a v h hn, if_neg (by omega)]

/-- `MemWrite` keeps the canonical form. -/
theorem wf_writeBytes {n : Nat} (s : State) (a : Addr) (v : Bytes n)
    (h : Memory.wf s.buf = true) : Memory.wf (writeBytes s a v).buf = true :=
  Memory.wf_writeList a v.toList h

/-- A one-byte write keeps the canonical form. -/
theorem wf_writeByte (s : State) (a : Addr) (b : Byte) (h : Memory.wf s.buf = true) :
    Memory.wf (writeByte s a b).buf = true :=
  Memory.wf_write a b h

/-- An element of `MemRead`. -/
theorem byteAt_readBytes (s : State) (a : Addr) {n i : Nat} (h : i < n) :
    byteAt (readBytes s a n) i = readByte s (addrAdd a i) := by
  simp [byteAt, readBytes, h]

/-- An element of an array after one element was replaced. -/
theorem byteAt_setByte {n : Nat} (v : Bytes n) {i j : Nat} (b : Byte) (hj : j < n) :
    byteAt (setByte v i b) j = if j = i then b else byteAt v j := by
  simp [byteAt, setByte, hj, Vector.getElem_setIfInBounds, eq_comm (a := i)]

/-- An element of an array after a byte was added to one element. -/
theorem byteAt_xorByte {n : Nat} (v : Bytes n) {i j : Nat} (b : Byte) (hj : j < n) :
    byteAt (xorByte v i b) j = if j = i then byteAt v i ^^^ b else byteAt v j :=
  byteAt_setByte v _ hj

/-- `MemRead` looks at the memory only. -/
theorem readBytes_congr {s t : State} (h : t.buf = s.buf) (a : Addr) (n : Nat) :
    readBytes t a n = readBytes s a n := by
  simp [readBytes, readByte, h]

/-- The memory of the reset state is canonical. -/
theorem wf_reset : Memory.wf State.reset.buf = true := rfl

end Sys2Proof.Machine
end

