-- ==== Sys2Proof/Laws/PerInstr.lean ====
section
/-! SUPPORT. Per-constructor laws: the shape of a request's encoding (spec/30_encoding.md R101, R107, R113). A
command's first byte is its opcode and that byte alone fixes how many bytes follow; an event is one byte. -/

namespace Sys2Proof.Laws.EncodeShape

/-- The encoding of `i` has the length that its format and its first byte fix. -/
def Statement (i : Instr) : Prop :=
  ∃ op rest, (encode i).2 = op :: rest ∧
    ((encode i).1 = .cmd → rest.length + 1 = requestLength op) ∧ ((encode i).1 = .evt → rest = [])

theorem statement_of_command {i : Instr} {op : Byte} {rest : List Byte} (h : encode i = (.cmd, op :: rest))
    (hl : rest.length + 1 = requestLength op) : Statement i := by
  refine ⟨op, rest, by rw [h], fun _ => hl, fun he => ?_⟩
  rw [h] at he
  cases he

theorem statement_of_event {i : Instr} {b : Byte} (h : encode i = (.evt, [b])) : Statement i := by
  refine ⟨b, [], by rw [h], fun he => ?_, fun _ => rfl⟩
  rw [h] at he
  cases he

theorem twiInit : Statement .twiInit :=
  statement_of_command rfl rfl

theorem twiWrite (addr7 : BitVec 7) (len : Len) (ptr : Addr) : Statement (.twiWrite addr7 len ptr) :=
  statement_of_command rfl rfl

theorem twiWrite1 (addr7 : BitVec 7) (byte : Byte) : Statement (.twiWrite1 addr7 byte) :=
  statement_of_command rfl rfl

theorem twiRead (addr7 : BitVec 7) (len : Len) (ptr : Addr) : Statement (.twiRead addr7 len ptr) :=
  statement_of_command rfl rfl

theorem aes128Enc (kptr bptr : Addr) : Statement (.aes128Enc kptr bptr) :=
  statement_of_command rfl rfl

theorem aes128Dec (kptr bptr : Addr) : Statement (.aes128Dec kptr bptr) :=
  statement_of_command rfl rfl

theorem aes128Derive (kptr dptr : Addr) : Statement (.aes128Derive kptr dptr) :=
  statement_of_command rfl rfl

theorem aes256Enc (kptr bptr : Addr) : Statement (.aes256Enc kptr bptr) :=
  statement_of_command rfl rfl

theorem aes256Dec (kptr bptr : Addr) : Statement (.aes256Dec kptr bptr) :=
  statement_of_command rfl rfl

theorem aes256Derive (kptr dptr : Addr) : Statement (.aes256Derive kptr dptr) :=
  statement_of_command rfl rfl

theorem aes128Expand (kptr sptr : Addr) : Statement (.aes128Expand kptr sptr) :=
  statement_of_command rfl rfl

theorem aes128Ctr (sptr cptr : Addr) (n : Count) (dptr : Addr) : Statement (.aes128Ctr sptr cptr n dptr) :=
  statement_of_command rfl rfl

theorem aesSbox (byte : Byte) : Statement (.aesSbox byte) :=
  statement_of_command rfl rfl

theorem aesIsbox (byte : Byte) : Statement (.aesIsbox byte) :=
  statement_of_command rfl rfl

theorem aesSubBytes (bptr : Addr) : Statement (.aesSubBytes bptr) :=
  statement_of_command rfl rfl

theorem aesIsubBytes (bptr : Addr) : Statement (.aesIsubBytes bptr) :=
  statement_of_command rfl rfl

theorem aesShiftRows (bptr : Addr) : Statement (.aesShiftRows bptr) :=
  statement_of_command rfl rfl

theorem aesIshiftRows (bptr : Addr) : Statement (.aesIshiftRows bptr) :=
  statement_of_command rfl rfl

theorem aesMixColumns (bptr : Addr) : Statement (.aesMixColumns bptr) :=
  statement_of_command rfl rfl

theorem aesImixColumns (bptr : Addr) : Statement (.aesImixColumns bptr) :=
  statement_of_command rfl rfl

theorem aesAddRoundKey (bptr kptr : Addr) : Statement (.aesAddRoundKey bptr kptr) :=
  statement_of_command rfl rfl

theorem aesKs128f (kptr : Addr) (byte : Byte) : Statement (.aesKs128f kptr byte) :=
  statement_of_command rfl rfl

theorem aesKs128i (kptr : Addr) (byte : Byte) : Statement (.aesKs128i kptr byte) :=
  statement_of_command rfl rfl

theorem aesKs256f (kptr : Addr) (byte : Byte) : Statement (.aesKs256f kptr byte) :=
  statement_of_command rfl rfl

theorem aesKs256i (kptr : Addr) (byte : Byte) : Statement (.aesKs256i kptr byte) :=
  statement_of_command rfl rfl

theorem gfMul2 (byte : Byte) : Statement (.gfMul2 byte) :=
  statement_of_command rfl rfl

theorem gfDiv2 (byte : Byte) : Statement (.gfDiv2 byte) :=
  statement_of_command rfl rfl

theorem gfLog (byte : Byte) : Statement (.gfLog byte) :=
  statement_of_command rfl rfl

theorem gfAlog (byte : Byte) : Statement (.gfAlog byte) :=
  statement_of_command rfl rfl

theorem gfInv (byte : Byte) : Statement (.gfInv byte) :=
  statement_of_command rfl rfl

theorem gfMul (byte byte2 : Byte) : Statement (.gfMul byte byte2) :=
  statement_of_command rfl rfl

theorem evtStart (low : Byte) : Statement (.evtStart low) :=
  statement_of_event rfl

theorem evtMtSlaAck (low : Byte) : Statement (.evtMtSlaAck low) :=
  statement_of_event rfl

theorem evtMtDataAck (low : Byte) : Statement (.evtMtDataAck low) :=
  statement_of_event rfl

theorem evtMrDataAck (low : Byte) : Statement (.evtMrDataAck low) :=
  statement_of_event rfl

theorem evtMrSlaAck (low : Byte) : Statement (.evtMrSlaAck low) :=
  statement_of_event rfl

theorem evtMrDataNack (low : Byte) : Statement (.evtMrDataNack low) :=
  statement_of_event rfl

theorem evtMtDataNack (low : Byte) : Statement (.evtMtDataNack low) :=
  statement_of_event rfl

theorem evtMtSlaNack (low : Byte) : Statement (.evtMtSlaNack low) :=
  statement_of_event rfl

theorem evtMrSlaNack (low : Byte) : Statement (.evtMrSlaNack low) :=
  statement_of_event rfl

theorem evtOther (status : Byte) : Statement (.evtOther status) :=
  statement_of_event rfl

end Sys2Proof.Laws.EncodeShape
end

