-- ==== Sys2Proof/Laws/Steps.lean ====
section
/-! SUPPORT. What one step, one event, one TWI command and one AES or GF command can do, said once: the
lemmas to cite instead of unfolding `step` and `exec`. -/

namespace Sys2Proof.Machine

/-- An event is in flight exactly while MAIN waits for a pending result (R18). -/
theorem inFlight_iff (s : State) :
    inFlight s = true ↔ s.twPhase = .waitResult ∧ s.twResult = .pending := by
  simp [inFlight]

/-- In flight an event performs its rule (R150). -/
theorem admitted_of_inFlight {s : State} (hp : s.twPhase = .waitResult) (hr : s.twResult = .pending)
    (o : Outcome) : admitted s o = o := by
  simp [admitted, inFlight, hp, hr]

/-- An idle unit takes a TWI command from MAIN (R136). -/
theorem twiAccepts_of_idle {s : State} (hc : s.context = .main) (hp : s.twPhase = .idle) :
    twiAccepts s = true := by
  simp [twiAccepts, hc, hp]

/-- `ACT_STOP` and `SUCCESS`, field by field. -/
theorem stopSuccess_eq (s : State) : stopSuccess s = { s with twCtrl := 0x15, twResult := .success } := by
  simp [stopSuccess, endTransaction, act, ctrlAfter_values]

/-- `ACT_NONE` and `FAILURE`, field by field. -/
theorem endFailure_eq (s : State) :
    endFailure s = { s with twCtrl := s.twCtrl &&& 0x7F, twResult := .failure } := by
  simp [endFailure, endTransaction, act, ctrlAfter_values]

/-- The acknowledge of the next byte, field by field. -/
theorem acknowledgeNext_eq (s : State) :
    acknowledgeNext s = { s with twCtrl := if 1 < s.twRemaining.toNat then 0x45 else 0x05 } := by
  by_cases h : 1 < s.twRemaining.toNat <;> simp [acknowledgeNext, act, ctrlAfter_values, h]

/-- The next byte sent, or the end, field by field. -/
theorem transmitNext_eq (s : State) :
    transmitNext s =
      if s.twRemaining = 0 then { s with twCtrl := 0x15, twResult := .success }
      else { s with
        twData := transmitByte s, twCursor := addrAdd s.twCursor 1, twRemaining := s.twRemaining - 1
        twCtrl := 0x05 } := by
  by_cases h : s.twRemaining = 0 <;>
    simp [transmitNext, stopSuccess_eq, act, countByte, ctrlAfter_values, h]

/-- What every AES command that writes `BUF` leaves in it: `MemWrite` over unchanged memory, then the answer. -/
theorem stored_respond {n : Nat} {s u : State} (r : Response) (a : Addr) (v : Bytes n)
    (hu : u.buf = s.buf) (h : Memory.wf s.buf = true) (hn : n ≤ 2 ^ 16) :
    Stored s (respond r (writeBytes u a v)) a v := by
  have hw := stored_writeBytes u a v (hu ▸ h) hn
  refine ⟨fun i hi => (readByte_congr (respond_buf _ _) _).trans (hw.1 i hi), fun x hx => ?_⟩
  exact ((readByte_congr (respond_buf _ _) _).trans (hw.2 x hx)).trans (readByte_congr hu x)

/-- Each round command in place: the bytes stored, `st`, and nothing else (spec/44_aes_round.md). -/
theorem blockInPlace_spec (f : Block → Block) (p : Addr) (s : State) (h : Memory.wf s.buf = true) :
    Stored s (blockInPlace f p s) p (f (readBytes s p 16)) ∧
    (blockInPlace f p s).st = f (readBytes s p 16) ∧
    { blockInPlace f p s with buf := s.buf, st := s.st } = respond .done s := by
  refine ⟨stored_respond _ _ _ rfl h (by omega), by simp [blockInPlace, writeBytes], ?_⟩
  unfold blockInPlace respond
  cases s.context <;> simp [writeBytes]

/-- The event decoder answers events (R107, R108). -/
theorem isEvent_decodeEvt (b : Byte) : isEvent (decodeEvt b) = true := by
  revert b; decide +kernel

/-- Everything an event can do (R150 to R160): it is admitted in flight only, and then performs the rule of
its status. -/
theorem event_cases {i : Instr} {s t : State} (hi : isEvent i = true) (h : exec i s = .next t) :
    inFlight s = true ∧
    ((∃ l, i = .evtStart l) ∧ t = act .continue_ { s with twData := s.twAddr } ∨
     (∃ l, i = .evtMtSlaAck l ∨ i = .evtMtDataAck l) ∧ t = transmitNext s ∨
     (∃ l, i = .evtMrSlaAck l) ∧ t = acknowledgeNext s ∨
     (∃ l, i = .evtMrDataAck l) ∧ s.twRemaining ≠ 0 ∧ t = acknowledgeNext (storeReceived s) ∨
     (∃ l, i = .evtMrDataNack l) ∧ s.twRemaining ≠ 0 ∧ t = stopSuccess (storeReceived s) ∨
     (∃ l, i = .evtMtDataNack l) ∧ t = stopSuccess s ∨
     ((∃ l, i = .evtMtSlaNack l ∨ i = .evtMrSlaNack l) ∨ ∃ b, i = .evtOther b) ∧ t = endFailure s) := by
  have hadm : ∀ {o : Outcome}, admitted s o = .next t → inFlight s = true ∧ o = .next t := by
    intro o ho
    unfold admitted at ho
    split at ho
    · exact ⟨‹_›, ho⟩
    · cases ho
  have hrec : ∀ {f : State → State}, receive s f = .next t →
      s.twRemaining ≠ 0 ∧ t = f (storeReceived s) := by
    intro f ho
    unfold receive at ho
    split at ho
    · cases ho
    · exact ⟨‹_›, by injection ho with ho; exact ho.symm⟩
  cases i <;> first | (simp [isEvent, encode] at hi; done) | skip
  all_goals
    obtain ⟨hf, ho⟩ := hadm h
    refine ⟨hf, ?_⟩
  case evtMrDataAck => simpa using hrec ho
  case evtMrDataNack => simpa using hrec ho
  all_goals
    injection ho with ho
    subst ho
    simp

/-- Everything a TWI command can do (R130 to R137): it is accepted by an idle unit from MAIN, and configures the
peripheral or starts a transaction. -/
theorem twi_cases {i : Instr} {s t : State} (hi : isTwiCommand i = true) (h : exec i s = .next t) :
    s.context = .main ∧ s.twPhase = .idle ∧
    (i = .twiInit ∧ t = respond .done (act .enable
        { s with twBitrate := Config.parameters.bitrateDiv, twOwnaddr := Config.parameters.ownAddr }) ∨
     (∃ a n p, i = .twiWrite a n p ∧ t = startTransaction a false n p false 0 s) ∨
     (∃ a b, i = .twiWrite1 a b ∧ t = startTransaction a false 1 s.twCursor true b s) ∨
     (∃ a n p, i = .twiRead a n p ∧ n ≠ 0 ∧ t = startTransaction a true n p false 0 s)) := by
  have hacc : ∀ {o : Outcome},
      (if !twiAccepts s then .refused .twiBusy else o) = .next t →
        s.context = .main ∧ s.twPhase = .idle ∧ o = .next t := by
    intro o ho
    split at ho
    · cases ho
    · next hb => exact ⟨by simp_all [twiAccepts], by simp_all [twiAccepts], ho⟩
  cases i <;> first | (simp [isTwiCommand] at hi; done) | skip
  case twiRead a n p =>
    simp only [exec, execTwiRead] at h
    split at h
    · cases h
    · next hn =>
      obtain ⟨h1, h2, ho⟩ := hacc h
      injection ho with ho
      exact ⟨h1, h2, .inr (.inr (.inr ⟨a, n, p, rfl, hn, ho.symm⟩))⟩
  all_goals
    obtain ⟨h1, h2, ho⟩ := hacc h
    injection ho with ho
    exact ⟨h1, h2, by simp [ho.symm]⟩

/-- A `MemWrite` changes the memory only, which stays canonical. -/
theorem working_writeBytes {n : Nat} {s u : State} (a : Addr) (v : Bytes n) (hw : withWorkingOf s u = s)
    (hb : Memory.wf s.buf = true → Memory.wf u.buf = true) :
    withWorkingOf s (writeBytes u a v) = s ∧
      (Memory.wf s.buf = true → Memory.wf (writeBytes u a v).buf = true) :=
  ⟨hw, fun h => wf_writeBytes u a v (hb h)⟩

/-- Everything a command of the AES or GF unit can change (R46, R47, R248): the working registers, the memory,
which stays canonical, and the answer of its context. -/
theorem computing_cases {i : Instr} {s t : State} (he : isEvent i = false) (hw : isTwiCommand i = false)
    (h : exec i s = .next t) :
    ∃ u r, t = respond r u ∧ withWorkingOf s u = s ∧
      (Memory.wf s.buf = true → Memory.wf u.buf = true) := by
  have hctr : ∀ (k : Nat) (d : Addr) (u : State),
      withWorkingOf s (ctrBlocks k d u) = withWorkingOf s u ∧
        (Memory.wf u.buf = true → Memory.wf (ctrBlocks k d u).buf = true) := by
    intro k
    induction k with
    | zero => exact fun d u => ⟨rfl, id⟩
    | succ k ih =>
      intro d u
      refine ⟨(ih _ _).1.trans rfl, fun hu => (ih _ _).2 ?_⟩
      exact wf_writeBytes _ _ _ hu
  cases i <;> first
    | (simp [isEvent, encode] at he; done) | (simp [isTwiCommand] at hw; done) | skip
  case aes128Ctr sp cp n dp =>
    simp only [exec, execAes128Ctr] at h
    split at h
    · cases h
    · injection h with h
      refine ⟨_, _, h.symm, (hctr _ _ _).1.trans rfl, fun hs => ?_⟩
      exact wf_writeBytes _ _ _ ((hctr _ _ _).2 hs)
  case gfLog x =>
    simp only [exec, execGfLog] at h
    split at h
    · cases h
    · injection h with h
      exact ⟨_, _, h.symm, rfl, id⟩
  case aesSbox | aesIsbox | gfMul2 | gfDiv2 | gfAlog | gfInv | gfMul =>
    simp only [exec, execAesSbox, execAesIsbox, execGfMul2, execGfDiv2, execGfAlog, execGfInv, execGfMul,
      answer, Host.Outcome.next.injEq] at h
    exact ⟨_, _, h.symm, rfl, id⟩
  case aesSubBytes | aesIsubBytes | aesShiftRows | aesIshiftRows | aesMixColumns | aesImixColumns |
      aesKs128f | aesKs128i | aesKs256f | aesKs256i =>
    simp only [exec, execAesSubBytes, execAesIsubBytes, execAesShiftRows, execAesIshiftRows,
      execAesMixColumns, execAesImixColumns, execAesKs128f, execAesKs128i, execAesKs256f, execAesKs256i,
      blockInPlace, key128InPlace, key256InPlace, Host.Outcome.next.injEq] at h
    exact ⟨_, _, h.symm, working_writeBytes _ _ rfl id⟩
  case aes128Enc | aes128Dec | aes128Derive | aes256Enc | aes256Dec | aes256Derive | aes128Expand |
      aesAddRoundKey =>
    simp only [exec, execAes128Enc, execAes128Dec, execAes128Derive, execAes256Enc, execAes256Dec,
      execAes256Derive, execAes128Expand, execAesAddRoundKey, blockInPlace, finish128, finish256] at h
    split at h
    · cases h
    · simp only [Host.Outcome.next.injEq] at h
      exact ⟨_, _, h.symm, working_writeBytes _ _ rfl id⟩

/-- A decoder's answer, where it is a request, is a command. -/
def answersCommands (r : Except DecodeError Instr) : Prop := ∀ i, r = .ok i → isEvent i = false

theorem answersCommands_error (e : DecodeError) : answersCommands (.error e) := by intro i h; cases h

theorem answersCommands_ok {i : Instr} (h : isEvent i = false) : answersCommands (.ok i) := by
  intro j hj; cases hj; exact h

theorem answersCommands_ite {c : Prop} [Decidable c] {a b : Except DecodeError Instr}
    (ha : answersCommands a) (hb : answersCommands b) : answersCommands (if c then a else b) := by
  split
  · exact ha
  · exact hb

theorem answersCommands_takeField {w : Nat} {op : Byte} {bytes : List Byte}
    {next : BitVec w → List Byte → Except DecodeError Instr} (h : ∀ v rest, answersCommands (next v rest)) :
    answersCommands (takeField w op bytes next) := by
  unfold takeField
  split
  · exact answersCommands_error _
  · exact answersCommands_ite (h _ _) (answersCommands_error _)

theorem answersCommands_end {op : Byte} {i : Instr} {bytes : List Byte} (h : isEvent i = false) :
    answersCommands (operandsEnd op i bytes) := by
  unfold operandsEnd
  split
  · exact answersCommands_ok h
  · exact answersCommands_error _

/-- The command decoder answers no event (R100). -/
theorem isEvent_decodeCmd {bytes : List Byte} {i : Instr} (h : decodeCmd bytes = .ok i) :
    isEvent i = false := by
  suffices hall : answersCommands (decodeCmd bytes) from hall i h
  cases bytes with
  | nil => exact answersCommands_error _
  | cons op rest =>
    unfold decodeCmd decodeCmdIn decodeTwi decodeAes decodeGf
    repeat' apply answersCommands_ite
    all_goals
      try simp only [operandsByte, operandsByteByte, operandsPtr, operandsPtrPtr, operandsPtrByte,
        operandsCtr, operandsAddrByte, operandsAddrLenPtr]
      repeat' (apply answersCommands_takeField; intro _ _)
      all_goals first | exact answersCommands_error _ | exact answersCommands_end rfl

/-- Where a context's command gives a next state, the context could send it (R289). -/
theorem sentBy_eq_next {c : Context} {i : Instr} {s t : State} {o : Outcome} (h : sentBy c i s o = .next t) :
    o = .next t ∧
      (c = .main ∧ (s.twPhase = .idle ∨ isTwiCommand i = true) ∨ c = .irq ∧ irqReady s = true) := by
  unfold sentBy at h
  cases c with
  | main =>
    simp only at h
    split at h
    · exact ⟨h, .inl ⟨rfl, ‹_›⟩⟩
    · cases h
  | irq =>
    simp only at h
    split at h
    · exact ⟨h, .inr ⟨rfl, ‹_›⟩⟩
    · cases h

/-- Where IRQ sends no command next, the handler runs exactly while the interrupt is enabled and pending. -/
theorem handlerRuns_eq {s : State} (h : ∀ bytes moves, s.script ≠ .command .irq bytes :: moves) :
    handlerRuns s = irqReady s := by
  have : irqSends s = false := by
    unfold irqSends
    split
    · next hs => exact absurd hs (h _ _)
    · rfl
  simp [handlerRuns, this]

/-- Without an interrupt to take no handler runs. -/
theorem handlerRuns_of_not_ready {s : State} (h : irqReady s = false) : handlerRuns s = false := by
  simp [handlerRuns, h]

/-- Everything one step can do (R80, R284, R285, R289, R311): a reset, the handler, or the next move of the script. -/
theorem step_cases {s t : State} (h : step s = .next t) :
    (powerFails s = true ∧ t = restart s) ∨
    powerFails s = false ∧
    ((irqReady s = true ∧ irqSends s = false ∧
        ∃ u, exec (decodeEvt s.twStatus) (enterContext .irq s) = .next u ∧ t = leaveContext u) ∨
    (∃ c moves bytes i u, s.script = .command c bytes :: moves ∧ decodeCmd bytes = .ok i ∧
        (c = .main ∧ irqReady s = false ∧ (s.twPhase = .idle ∨ isTwiCommand i = true) ∨
          c = .irq ∧ irqReady s = true) ∧
        exec i (enterContext c { s with script := moves }) = .next u ∧ t = leaveContext u) ∨
    (irqReady s = false ∧
      (s.script = [] ∧ t = mainPoll s ∨
       ∃ moves,
        (s.script = .poll :: moves ∧ t = mainPoll { s with script := moves }) ∨
        (s.script = .stopComplete :: moves ∧ t = periphStopComplete { s with script := moves }) ∨
        (∃ a b, s.script = .store a b :: moves ∧ t = callerStore a b { s with script := moves }) ∨
        (∃ status data, s.script = .raise status data :: moves ∧
          periphRaise status data { s with script := moves } = .next t)))) := by
  unfold step at h
  split at h
  · next hp => injection h with h; exact .inl ⟨hp, h.symm⟩
  next hp =>
  refine .inr ⟨by simpa using hp, ?_⟩
  split at h
  · next hr =>
    obtain ⟨u, hu, ht⟩ := mapNext_eq_next h
    simp only [handlerRuns, Bool.and_eq_true, Bool.not_eq_true'] at hr
    exact .inl ⟨hr.1, hr.2, u, hu, ht⟩
  · next hr =>
    have hq : (∀ bytes moves, s.script ≠ .command .irq bytes :: moves) → irqReady s = false := fun hs => by
      rw [← handlerRuns_eq hs]; simpa using hr
    split at h
    · next hs =>
      injection h with h; exact .inr (.inr ⟨hq (by simp [hs]), .inl ⟨hs, h.symm⟩⟩)
    · next moves hs =>
      injection h with h; exact .inr (.inr ⟨hq (by simp [hs]), .inr ⟨moves, .inl ⟨hs, h.symm⟩⟩⟩)
    · next moves hs =>
      injection h with h; exact .inr (.inr ⟨hq (by simp [hs]), .inr ⟨moves, .inr (.inl ⟨hs, h.symm⟩)⟩⟩)
    · next a b moves hs =>
      injection h with h
      exact .inr (.inr ⟨hq (by simp [hs]), .inr ⟨moves, .inr (.inr (.inl ⟨a, b, hs, h.symm⟩))⟩⟩)
    · next moves hs => exact absurd (by simp [powerFails, hs]) hp
    · next status data moves hs =>
      exact .inr (.inr ⟨hq (by simp [hs]), .inr ⟨moves, .inr (.inr (.inr ⟨status, data, hs, h⟩))⟩⟩)
    · next c bytes moves hs =>
      split at h
      · next e he => cases e <;> cases h
      · next i hi =>
        obtain ⟨ho, hc⟩ := sentBy_eq_next h
        obtain ⟨u, hu, ht⟩ := mapNext_eq_next ho
        refine .inr (.inl ⟨c, moves, bytes, i, u, hs, hi, ?_, hu, ht⟩)
        rcases hc with ⟨rfl, hc⟩ | ⟨rfl, hc⟩
        · exact .inl ⟨rfl, hq (by simp [hs]), hc⟩
        · exact .inr ⟨rfl, hc⟩

/-- No reset comes next where another move does. -/
theorem powerFails_eq_false {s : State} (h : ∀ moves, s.script ≠ .powerCycle :: moves) :
    powerFails s = false := by
  unfold powerFails
  split
  · next hs => exact absurd hs (h _)
  · rfl

/-- What raising an event gives, where it gives a next state (R291, R296). -/
theorem periphRaise_cases {status data : Byte} {s t : State} (h : periphRaise status data s = .next t) :
    inFlight s = true ∧ ctrlIntSet s.twCtrl = false ∧
      t = { s with twStatus := status, twData := data, twCtrl := setBit s.twCtrl Config.ctrlInt } := by
  unfold periphRaise at h
  split at h
  · cases h
  · split at h
    · cases h
    · injection h with h
      exact ⟨by simp_all, by simp_all, h.symm⟩

end Sys2Proof.Machine
end

