-- ==== Sys2Proof/Tests/Slice0.lean ====
section
/-! SUPPORT. The model's own tests: ill-formed terms the checks refuse, one word per constructor written out from
the encoding tables (spec/30_encoding.md R103 to R109), the vectors of spec/95_test_vectors.md one step at a
time, and a state and operands that meet the hypotheses of each statement. -/

namespace Sys2Proof.Tests

open Sys2Proof.Machine

/-! ### Helpers -/

/-- The outcome is a next state with the property `p`. -/
def nextWith (o : Outcome) (p : State → Bool) : Bool :=
  match o with
  | .next s => p s
  | .fault _ => false
  | .refused _ => false

/-- The fault of an outcome, if it is one. -/
def faultOf : Outcome → Option Fault
  | .next _ => none
  | .fault r => some r
  | .refused _ => none

/-- The refusal of an outcome, if it is one. -/
def refusalOf : Outcome → Option Refusal
  | .next _ => none
  | .fault _ => none
  | .refused r => some r

/-- The sixteen bytes of `BUF` from `a` are the hex string `x`, in a canonical memory. -/
def holds (s : State) (a : Addr) (x : BitVec 128) : Bool :=
  decide ((readBytes s a 16).toList = (blockOf x).toList) && Memory.wf s.buf

/-- A state with the sixteen bytes `x` at `a`. -/
def put (a : Addr) (x : BitVec 128) (s : State) : State := writeBytes s a (blockOf x)

/-- The unit after `TWI.INIT`, with a transaction in flight. -/
def flying : State := { State.reset with twCtrl := 0x05, twPhase := .waitResult, twResult := .pending }

/-- The unit after `TWI.INIT`, idle. -/
def ready : State := { State.reset with twCtrl := 0x05 }

/-- Waiting for the STOP of a successful transaction. -/
def stopping : State := { State.reset with twCtrl := 0x15, twPhase := .waitStop }

/-! ### Well-formedness -/

theorem test_illFormed_recognizedOther : WellFormed (.evtOther 0x08) = false := by decide
theorem test_illFormed_recognizedOtherLow : WellFormed (.evtOther 0x5F) = false := by decide
theorem test_illFormed_eventBits :
    ([.evtStart 0x08, .evtMtSlaAck 0x08, .evtMtDataAck 0x10, .evtMrDataAck 0x20, .evtMrSlaAck 0x40,
      .evtMrDataNack 0x80, .evtMtDataNack 0x08, .evtMtSlaNack 0x0F, .evtMrSlaNack 0xFF] : List Instr).all
      (fun i => !WellFormed i) = true ∧ WellFormed (.evtStart 0x07) = true := by decide
theorem test_wellFormed_other : WellFormed (.evtOther 0x38) = true := by decide
theorem test_illFormed_keys128 :
    ([.aes128Enc 0 16, .aes128Dec 0 16, .aes128Derive 0 16, .aesKs128f 0 1, .aesKs128i 0 1] : List Instr).all
      (fun i => !WellFormedIn { keys128 := false, keys256 := true, fastPath := true } i && WellFormed i) = true := by
  decide
theorem test_illFormed_keys256 :
    ([.aes256Enc 0 32, .aes256Dec 0 32, .aes256Derive 0 32, .aesKs256f 0 1, .aesKs256i 0 1] : List Instr).all
      (fun i => !WellFormedIn { keys128 := true, keys256 := false, fastPath := true } i && WellFormed i) = true := by
  decide
theorem test_illFormed_fastPath :
    ([.aes128Expand 0 16, .aes128Ctr 0 176 1 192] : List Instr).all
      (fun i => !WellFormedIn { keys128 := true, keys256 := true, fastPath := false } i && WellFormed i) = true := by
  decide

/-! ### One word per constructor (R103, R104, R108, R109) -/

theorem test_decode_twiInit : decode .cmd [0b00000000] = .ok .twiInit := by decide
theorem test_decode_twiWrite :
    decode .cmd [0b00000001, 0x50, 0x03, 0x34, 0x12] = .ok (.twiWrite 0x50 3 0x1234) := by decide
theorem test_decode_twiWrite1 : decode .cmd [0b00000010, 0x3C, 0xAF] = .ok (.twiWrite1 0x3C 0xAF) := by decide
theorem test_decode_twiRead :
    decode .cmd [0b00000011, 0x7F, 0xFF, 0x00, 0x80] = .ok (.twiRead 0x7F 255 0x8000) := by decide
theorem test_decode_aes128Enc :
    decode .cmd [0b01000000, 0x00, 0x03, 0x20, 0x03] = .ok (.aes128Enc 0x0300 0x0320) := by decide
theorem test_decode_aes128Dec :
    decode .cmd [0b01000001, 0x10, 0x03, 0x20, 0x03] = .ok (.aes128Dec 0x0310 0x0320) := by decide
theorem test_decode_aes128Derive :
    decode .cmd [0b01000010, 0x00, 0x03, 0x10, 0x03] = .ok (.aes128Derive 0x0300 0x0310) := by decide
theorem test_decode_aes256Enc :
    decode .cmd [0b01000100, 0x00, 0x04, 0x40, 0x04] = .ok (.aes256Enc 0x0400 0x0440) := by decide
theorem test_decode_aes256Dec :
    decode .cmd [0b01000101, 0x20, 0x04, 0x40, 0x04] = .ok (.aes256Dec 0x0420 0x0440) := by decide
theorem test_decode_aes256Derive :
    decode .cmd [0b01000110, 0x00, 0x04, 0x20, 0x04] = .ok (.aes256Derive 0x0400 0x0420) := by decide
theorem test_decode_aes128Expand :
    decode .cmd [0b01001000, 0xF0, 0x04, 0x00, 0x05] = .ok (.aes128Expand 0x04F0 0x0500) := by decide
theorem test_decode_aes128Ctr :
    decode .cmd [0b01001001, 0x00, 0x05, 0xB0, 0x05, 0x02, 0x01, 0xC0, 0x06] =
      .ok (.aes128Ctr 0x0500 0x05B0 0x0102 0x06C0) := by decide
theorem test_decode_aesSbox : decode .cmd [0b01010000, 0x53] = .ok (.aesSbox 0x53) := by decide
theorem test_decode_aesIsbox : decode .cmd [0b01010001, 0xED] = .ok (.aesIsbox 0xED) := by decide
theorem test_decode_aesSubBytes : decode .cmd [0b01010010, 0x01, 0x02] = .ok (.aesSubBytes 0x0201) := by decide
theorem test_decode_aesIsubBytes : decode .cmd [0b01010011, 0x01, 0x02] = .ok (.aesIsubBytes 0x0201) := by decide
theorem test_decode_aesShiftRows : decode .cmd [0b01010100, 0x01, 0x02] = .ok (.aesShiftRows 0x0201) := by decide
theorem test_decode_aesIshiftRows : decode .cmd [0b01010101, 0x01, 0x02] = .ok (.aesIshiftRows 0x0201) := by decide
theorem test_decode_aesMixColumns : decode .cmd [0b01010110, 0x01, 0x02] = .ok (.aesMixColumns 0x0201) := by decide
theorem test_decode_aesImixColumns : decode .cmd [0b01010111, 0x01, 0x02] = .ok (.aesImixColumns 0x0201) := by decide
theorem test_decode_aesAddRoundKey :
    decode .cmd [0b01011000, 0x20, 0x03, 0x00, 0x04] = .ok (.aesAddRoundKey 0x0320 0x0400) := by decide
theorem test_decode_aesKs128f : decode .cmd [0b01011001, 0x34, 0x12, 0x1B] = .ok (.aesKs128f 0x1234 0x1B) := by decide
theorem test_decode_aesKs128i : decode .cmd [0b01011010, 0x34, 0x12, 0x36] = .ok (.aesKs128i 0x1234 0x36) := by decide
theorem test_decode_aesKs256f : decode .cmd [0b01011011, 0x34, 0x12, 0x01] = .ok (.aesKs256f 0x1234 0x01) := by decide
theorem test_decode_aesKs256i : decode .cmd [0b01011100, 0x34, 0x12, 0x40] = .ok (.aesKs256i 0x1234 0x40) := by decide
theorem test_decode_gfMul2 : decode .cmd [0b10000000, 0x57] = .ok (.gfMul2 0x57) := by decide
theorem test_decode_gfDiv2 : decode .cmd [0b10000001, 0x1B] = .ok (.gfDiv2 0x1B) := by decide
theorem test_decode_gfLog : decode .cmd [0b10000010, 0x83] = .ok (.gfLog 0x83) := by decide
theorem test_decode_gfAlog : decode .cmd [0b10000011, 0xFE] = .ok (.gfAlog 0xFE) := by decide
theorem test_decode_gfInv : decode .cmd [0b10000100, 0x53] = .ok (.gfInv 0x53) := by decide
theorem test_decode_gfMul : decode .cmd [0b10000101, 0x57, 0x83] = .ok (.gfMul 0x57 0x83) := by decide
theorem test_decode_evtStart : decode .evt [0b00001011] = .ok (.evtStart 3) := by decide
theorem test_decode_evtMtSlaAck : decode .evt [0b00011010] = .ok (.evtMtSlaAck 2) := by decide
theorem test_decode_evtMtSlaNack : decode .evt [0b00100000] = .ok (.evtMtSlaNack 0) := by decide
theorem test_decode_evtMtDataAck : decode .evt [0b00101001] = .ok (.evtMtDataAck 1) := by decide
theorem test_decode_evtMtDataNack : decode .evt [0b00110000] = .ok (.evtMtDataNack 0) := by decide
theorem test_decode_evtMrSlaAck : decode .evt [0b01000111] = .ok (.evtMrSlaAck 7) := by decide
theorem test_decode_evtMrSlaNack : decode .evt [0b01001000] = .ok (.evtMrSlaNack 0) := by decide
theorem test_decode_evtMrDataAck : decode .evt [0b01010000] = .ok (.evtMrDataAck 0) := by decide
theorem test_decode_evtMrDataNack : decode .evt [0b01011100] = .ok (.evtMrDataNack 4) := by decide
theorem test_decode_evtOther :
    [0x00, 0x10, 0x38, 0x60, 0xF8].all (fun b => decode .evt [b] == .ok (.evtOther b)) = true := by decide

/-- TW-2g: the reserved opcode bytes the vectors name. -/
theorem test_decode_reserved :
    [0x04, 0x43, 0x47, 0x4A, 0x5D, 0x86, 0xC0].all
      (fun b => decode .cmd [b] == .error (.reservedOpcode b)) = true := by decide
/-- TW-2h: opcodes that are configured out. -/
theorem test_decode_configuredOut :
    decodeCmdIn { keys128 := true, keys256 := false, fastPath := true } [0x44, 0, 0, 0, 0] =
        .error (.reservedOpcode 0x44) ∧
      decodeCmdIn { keys128 := true, keys256 := true, fastPath := false } [0x49, 0, 0, 0, 0, 0, 0, 0, 0] =
        .error (.reservedOpcode 0x49) := by decide
/-- The fast path without 128 in `KEYSIZES` (log entry 22). -/
theorem test_decode_fastPathAlone :
    decodeCmdIn { keys128 := false, keys256 := true, fastPath := true } [0x48, 0, 0, 16, 0] =
      .ok (.aes128Expand 0 16) := by decide
/-- R102: the port has no eighth address bit; R101: the opcode byte fixes the length. -/
theorem test_decode_malformed :
    decode .cmd [0x02, 0x80, 0x00] = .error (.operandTooWide 0x02) ∧
      decode .cmd [0x02, 0x10] = .error (.wrongLength 0x02) ∧ decode .cmd [] = .error .noOpcode := by decide
/-- Table words: bytes past `nbits` read 0, byte 0 in bits 7..0. -/
theorem test_decodeTableWord :
    decodeTableWord 8 0x03 = some (.twiRead 0 0 0) ∧ decodeTableWord 24 0xAF3C02 = some (.twiWrite1 0x3C 0xAF) ∧
      decodeTableWord 8 0x08 = some (.evtStart 0) ∧ decodeTableWord 4 0 = none := by decide

/-! ### TWI commands (spec/95_test_vectors.md TW-2, TW-3, TW-4, P1, P2, P4) -/

/-- TW-4. -/
theorem test_twiInit : nextWith (exec .twiInit State.reset)
    (fun s => s.twCtrl == 0x05 && s.twPhase == .idle && s.respMain == some .done) = true := by decide
/-- TW-2c. -/
theorem test_twiInit_busy : refusalOf (exec .twiInit stopping) = some .twiBusy := by decide
/-- P1 step 1: `TW_CTRL` is written with 0xA5, whose `INT` acknowledges (R36). -/
theorem test_twiWrite : nextWith (exec (.twiWrite 0x50 2 0x0100) ready)
    (fun s => s.twAddr == 0xA0 && s.twRemaining == 2 && s.twCursor == 0x0100 && !s.twSrc &&
      s.twResult == .pending && s.twCtrl == 0x25 && s.twPhase == .waitResult) = true := by decide
/-- TW-2b. -/
theorem test_twiWrite_busy : refusalOf (exec (.twiWrite 0x50 1 0x0100) flying) = some .twiBusy := by decide
/-- P4. -/
theorem test_twiWrite1 : nextWith (exec (.twiWrite1 0x3C 0xAF) ready)
    (fun s => s.twAddr == 0x78 && s.twSrc && s.twImm == 0xAF && s.twRemaining == 1) = true := by decide
/-- R136: not from the handler. -/
theorem test_twiWrite1_irq :
    refusalOf (exec (.twiWrite1 0x3C 0xAF) { ready with context := .irq }) = some .twiBusy := by decide
/-- P5 and TW-3: the address byte of a read. -/
theorem test_twiRead : nextWith (exec (.twiRead 0x68 1 0x0200) ready)
    (fun s => s.twAddr == 0xD1 && s.twRemaining == 1 && s.twCursor == 0x0200) = true := by decide
/-- TW-2a. -/
theorem test_twiRead_zero : refusalOf (exec (.twiRead 0x50 0 0x0200) ready) = some .readLengthZero := by decide

/-! ### TWI events (TW-1, TW-2) -/

/-- TW-1a. -/
theorem test_evtStart : nextWith (exec (.evtStart 0) { flying with twAddr := 0xA0 })
    (fun s => s.twData == 0xA0 && s.twCtrl == 0x05) = true := by decide
/-- TW-1b. -/
theorem test_evtMtSlaAck :
    nextWith (exec (.evtMtSlaAck 0) (writeByte { flying with twRemaining := 2, twCursor := 0x0100 } 0x0100 0x12))
    (fun s => s.twData == 0x12 && s.twCursor == 0x0101 && s.twRemaining == 1 && s.twCtrl == 0x05) = true := by
  decide
/-- TW-1c. -/
theorem test_evtMtSlaAck_last : nextWith (exec (.evtMtSlaAck 0) flying)
    (fun s => s.twCtrl == 0x15 && s.twResult == .success) = true := by decide
/-- TW-1d. -/
theorem test_evtMtDataAck : nextWith (exec (.evtMtDataAck 0)
      { flying with twRemaining := 1, twSrc := true, twImm := 0xAF, twCursor := 0x1234 })
    (fun s => s.twData == 0xAF && s.twCursor == 0x1235 && s.twRemaining == 0) = true := by decide
/-- TW-1t: the cursor wraps. -/
theorem test_evtMtDataAck_wraps :
    nextWith (exec (.evtMtDataAck 0) (writeByte { flying with twRemaining := 2, twCursor := 0xFFFF } 0xFFFF 0x77))
    (fun s => s.twData == 0x77 && s.twCursor == 0x0000 && s.twRemaining == 1) = true := by decide
/-- TW-1f. -/
theorem test_evtMtDataNack : nextWith (exec (.evtMtDataNack 0) { flying with twRemaining := 3 })
    (fun s => s.twCtrl == 0x15 && s.twResult == .success && s.twRemaining == 3) = true := by decide
/-- TW-1g. -/
theorem test_evtMrSlaAck : nextWith (exec (.evtMrSlaAck 0) { flying with twRemaining := 3 })
    (fun s => s.twCtrl == 0x45) = true := by decide
/-- TW-1h. -/
theorem test_evtMrSlaAck_single : nextWith (exec (.evtMrSlaAck 0) { flying with twRemaining := 1 })
    (fun s => s.twCtrl == 0x05) = true := by decide
/-- TW-1i. -/
theorem test_evtMrDataAck :
    nextWith (exec (.evtMrDataAck 0) { flying with twRemaining := 3, twCursor := 0x0200, twData := 0xDE })
    (fun s => readByte s 0x0200 == 0xDE && s.twCursor == 0x0201 && s.twRemaining == 2 && s.twCtrl == 0x45) = true := by
  decide
/-- TW-1j. -/
theorem test_evtMrDataAck_last :
    nextWith (exec (.evtMrDataAck 0) { flying with twRemaining := 2, twCursor := 0x0201, twData := 0xAD })
    (fun s => readByte s 0x0201 == 0xAD && s.twRemaining == 1 && s.twCtrl == 0x05) = true := by decide
/-- TW-1k. -/
theorem test_evtMrDataAck_overrun : refusalOf (exec (.evtMrDataAck 0) flying) = some .readOverrun := by decide
/-- TW-1m. -/
theorem test_evtMrDataNack :
    nextWith (exec (.evtMrDataNack 0) { flying with twRemaining := 3, twCursor := 0x0200, twData := 0x55 })
    (fun s => readByte s 0x0200 == 0x55 && s.twCursor == 0x0201 && s.twRemaining == 2 && s.twCtrl == 0x15 &&
      s.twResult == .success) = true := by decide
/-- TW-1n. -/
theorem test_evtMtSlaNack : nextWith (exec (.evtMtSlaNack 0) { flying with twRemaining := 2 })
    (fun s => s.twResult == .failure && s.twRemaining == 2 && !ctrlStoSet s.twCtrl) = true := by decide
/-- TW-1o. -/
theorem test_evtMrSlaNack : nextWith (exec (.evtMrSlaNack 0) { flying with twRemaining := 3 })
    (fun s => s.twResult == .failure && s.buf == []) = true := by decide
/-- TW-1p. -/
theorem test_evtOther : nextWith (exec (.evtOther 0x38) flying)
    (fun s => s.twResult == .failure && !ctrlStoSet s.twCtrl) = true := by decide
/-- TW-2d, TW-2e, TW-2f. -/
theorem test_evt_outside :
    [ready, { flying with twResult := .success }, stopping].all (fun s =>
      refusalOf (exec (.evtStart 0) s) == some .eventOutsideTransaction &&
      refusalOf (exec (.evtOther 0x38) s) == some .eventOutsideTransaction) = true := by decide

/-! ### GF unit (GF-1 to GF-6) -/

/-- The answer of a command executed from reset. -/
def answerOf (i : Instr) : Option Response :=
  match exec i State.reset with
  | .next s => s.respMain
  | .fault _ => none
  | .refused _ => none

theorem test_gfMul2 : answerOf (.gfMul2 0x8E) = some (.val 0x07) ∧ answerOf (.gfMul2 0xFF) = some (.val 0xE5) := by decide
theorem test_gfDiv2 : answerOf (.gfDiv2 0x6C) = some (.val 0x36) ∧ answerOf (.gfDiv2 0xFF) = some (.val 0xF2) := by decide
theorem test_gfLog : answerOf (.gfLog 0xC1) = some (.val 0xB2) ∧ answerOf (.gfLog 0xF6) = some (.val 0xFE) := by decide
theorem test_gfLog_zero : refusalOf (exec (.gfLog 0) State.reset) = some .logOfZero := by decide
theorem test_gfAlog : answerOf (.gfAlog 0x32) = some (.val 0x04) ∧ answerOf (.gfAlog 0xFF) = some (.val 0x01) := by decide
theorem test_gfInv : answerOf (.gfInv 0xCA) = some (.val 0x53) ∧ answerOf (.gfInv 0xFF) = some (.val 0x1C) := by decide
theorem test_gfMul : answerOf (.gfMul 0x57 0x13) = some (.val 0xFE) ∧ answerOf (.gfMul 0xFF 0xFF) = some (.val 0x13) := by
  decide

/-- The tables R176 and R177 print are those of the generator: the ends and the example of R172. -/
theorem test_tablesOfTheGenerator :
    findLog 0x03 0x02 0 255 = gfLogRom 0x02 ∧ findLog 0x03 0xF6 0 255 = 0xFE ∧ power 0x03 0x19 = gfAlogRom 0x19 ∧
      power 0x03 (255 % 255) = gfAlogRom 255 := by decide +kernel

/-! ### S-box and round commands (SB-1, RF-1) -/

theorem test_aesSbox : answerOf (.aesSbox 0x7F) = some (.val 0xD2) ∧ answerOf (.aesSbox 0xC9) = some (.val 0xDD) := by decide
theorem test_aesIsbox : answerOf (.aesIsbox 0x52) = some (.val 0x48) ∧ answerOf (.aesIsbox 0xFF) = some (.val 0x7D) := by
  decide
theorem test_aesSubBytes :
    nextWith (exec (.aesSubBytes 0x20) (put 0x20 0x00112233445566778899aabbccddeeff State.reset))
      (fun s => holds s 0x20 0x638293c31bfc33f5c4eeacea4bc12816) = true := by decide +kernel
theorem test_aesIsubBytes :
    nextWith (exec (.aesIsubBytes 0x20) (put 0x20 0x00112233445566778899aabbccddeeff State.reset))
      (fun s => holds s 0x20 0x52e3946686edd30297f962fe27c9997d) = true := by decide +kernel
theorem test_aesShiftRows :
    nextWith (exec (.aesShiftRows 0x20) (put 0x20 0x000102030405060708090a0b0c0d0e0f State.reset))
      (fun s => holds s 0x20 0x00050a0f04090e03080d02070c01060b) = true := by decide +kernel
theorem test_aesIshiftRows :
    nextWith (exec (.aesIshiftRows 0x20) (put 0x20 0x000102030405060708090a0b0c0d0e0f State.reset))
      (fun s => holds s 0x20 0x000d0a0704010e0b0805020f0c090603) = true := by decide +kernel
theorem test_aesMixColumns :
    nextWith (exec (.aesMixColumns 0x20) (put 0x20 0x000102030405060708090a0b0c0d0e0f State.reset))
      (fun s => holds s 0x20 0x02070005060304010a0f080d0e0b0c09) = true := by decide +kernel
/-- RF-1 at the top of the address space: the block wraps (R89). -/
theorem test_aesImixColumns :
    nextWith (exec (.aesImixColumns 0xFFF8) (put 0xFFF8 0x000102030405060708090a0b0c0d0e0f State.reset))
      (fun s => holds s 0xFFF8 0x0a0f080d0e0b0c090207000506030401) = true := by decide +kernel
theorem test_aesAddRoundKey :
    nextWith (exec (.aesAddRoundKey 0x20 0x40) (put 0x40 0x2b7e151628aed2a6abf7158809cf4f3c
        (put 0x20 0x00112233445566778899aabbccddeeff State.reset)))
      (fun s => holds s 0x20 0x2b6f37256cfbb4d1236ebf33c512a1c3 &&
        holds s 0x40 0x2b7e151628aed2a6abf7158809cf4f3c) = true := by decide +kernel
theorem test_aesAddRoundKey_overlap :
    refusalOf (exec (.aesAddRoundKey 0x20 0x2F) State.reset) = some .operandOverlap := by decide

/-! ### Key steps (KS-1 to KS-5) -/

theorem test_aesKs128f :
    nextWith (exec (.aesKs128f 0x20 0x01) (put 0x20 0x2b7e151628aed2a6abf7158809cf4f3c State.reset))
      (fun s => holds s 0x20 0xa0fafe1788542cb123a339392a6c7605) = true := by decide +kernel
theorem test_aesKs128i :
    nextWith (exec (.aesKs128i 0x20 0x36) (put 0x20 0xd014f9a8c9ee2589e13f0cc8b6630ca6 State.reset))
      (fun s => holds s 0x20 0xac7766f319fadc2128d12941575c006e) = true := by decide +kernel
theorem test_aesKs256f :
    nextWith (exec (.aesKs256f 0x20 0x01) (put 0x20 0x603deb1015ca71be2b73aef0857d7781
        (put 0x30 0x1f352c073b6108d72d9810a30914dff4 State.reset)))
      (fun s => holds s 0x20 0x9ba354118e6925afa51a8b5f2067fcde &&
        holds s 0x30 0xa8b09c1a93d194cdbe49846eb75d5b9a) = true := by decide +kernel
theorem test_aesKs256i :
    nextWith (exec (.aesKs256i 0x20 0x40) (put 0x20 0xfe4890d1e6188d0b046df344706c631e
        (put 0x30 0x9baa51917f7fcaa5e5a0a06b58b0b966 State.reset)))
      (fun s => holds s 0x20 0x749c47ab18501ddae2757e4f7401905a &&
        holds s 0x30 0xcafaaae3e4d59b349adf6acebd10190d) = true := by decide +kernel

/-! ### Block operations (P6, P7, E128, E256) -/

/-- E128-1; the key operand is read only (E128-9). -/
theorem test_aes128Enc :
    nextWith (exec (.aes128Enc 0x20 0x40) (put 0x40 0x3243f6a8885a308d313198a2e0370734
        (put 0x20 0x2b7e151628aed2a6abf7158809cf4f3c State.reset)))
      (fun s => holds s 0x40 0x3925841d02dc09fbdc118597196a0b32 &&
        holds s 0x20 0x2b7e151628aed2a6abf7158809cf4f3c && s.rcon == 0x6C) = true := by decide +kernel
theorem test_aes128Enc_overlap :
    refusalOf (exec (.aes128Enc 0x20 0x11) State.reset) = some .operandOverlap := by decide
/-- E128-1, and `rcon` of E128-9. -/
theorem test_aes128Dec :
    nextWith (exec (.aes128Dec 0x20 0x40) (put 0x40 0x3925841d02dc09fbdc118597196a0b32
        (put 0x20 0xd014f9a8c9ee2589e13f0cc8b6630ca6 State.reset)))
      (fun s => holds s 0x40 0x3243f6a8885a308d313198a2e0370734 && s.rcon == 0x8D) = true := by decide +kernel
/-- P6, first command. -/
theorem test_aes128Derive :
    nextWith (exec (.aes128Derive 0x0300 0x0310) (put 0x0300 0x2b7e151628aed2a6abf7158809cf4f3c State.reset))
      (fun s => holds s 0x0310 0xd014f9a8c9ee2589e13f0cc8b6630ca6 &&
        holds s 0x0300 0x2b7e151628aed2a6abf7158809cf4f3c) = true := by decide +kernel
/-- The destination may be the key source (R88). -/
theorem test_aes128Derive_inPlace : nextWith (exec (.aes128Derive 0x0300 0x0300) State.reset)
      (fun s => s.round == 10) = true := by decide
/-- E256-1. -/
theorem test_aes256Enc :
    nextWith (exec (.aes256Enc 0x20 0x40) (put 0x40 0x00112233445566778899aabbccddeeff
        (put 0x20 0x000102030405060708090a0b0c0d0e0f (put 0x30 0x101112131415161718191a1b1c1d1e1f State.reset))))
      (fun s => holds s 0x40 0x8ea2b7ca516745bfeafc49904b496089 && s.rcon == 0x80) = true := by decide +kernel
/-- E256-1. -/
theorem test_aes256Dec :
    nextWith (exec (.aes256Dec 0x20 0x40) (put 0x40 0x8ea2b7ca516745bfeafc49904b496089
        (put 0x20 0x24fc79ccbf0979e9371ac23c6d68de36 (put 0x30 0x721f7b9cdbed347ca5ba1fd66842d23c State.reset))))
      (fun s => holds s 0x40 0x00112233445566778899aabbccddeeff && s.rcon == 0x8D) = true := by decide +kernel
/-- KS-5. -/
theorem test_aes256Derive :
    nextWith (exec (.aes256Derive 0x20 0x60) State.reset)
      (fun s => holds s 0x60 0x10f80a1753bf729c45c979e7cb706385 &&
        holds s 0x70 0x6bbcf03618278e133a762307f456f73c) = true := by decide +kernel
/-- R88: a destination that overlaps its key source without being it. -/
theorem test_aes256Derive_overlap :
    refusalOf (exec (.aes256Derive 0x20 0x3F) State.reset) = some .operandOverlap := by decide

/-! ### Counter mode (KS-1, CTR-1, CTR-3, CTR-6) -/

/-- KS-1: the first, the second and the last round key. -/
theorem test_aes128Expand :
    nextWith (exec (.aes128Expand 0x20 0x0100) (put 0x20 0x2b7e151628aed2a6abf7158809cf4f3c State.reset))
      (fun s => holds s 0x0100 0x2b7e151628aed2a6abf7158809cf4f3c &&
        holds s 0x0110 0xa0fafe1788542cb123a339392a6c7605 &&
        holds s 0x01A0 0xd014f9a8c9ee2589e13f0cc8b6630ca6) = true := by decide +kernel
theorem test_aes128Expand_overlap :
    refusalOf (exec (.aes128Expand 0x0110 0x0100) State.reset) = some .operandOverlap := by decide

/-- CTR-1, row 0, on the schedule of KS-1. -/
theorem test_aes128Ctr :
    nextWith (exec (.aes128Ctr 0x0100 0x01B0 1 0x0200)
        (writeBytes (put 0x01B0 0xf0f1f2f3f4f5f6f7f8f9fafbfcfdfeff
          (put 0x0200 0x6bc1bee22e409f96e93d7e117393172a State.reset))
          0x0100 (expand128 (blockOf 0x2b7e151628aed2a6abf7158809cf4f3c))))
      (fun s => holds s 0x0200 0x874d6191b620e3261bef6864990db6ce &&
        holds s 0x01B0 0xf0f1f2f3f4f5f6f7f8f9fafbfcfdff00) = true := by decide +kernel
/-- CTR-6: no block, the counter as it was. -/
theorem test_aes128Ctr_zero :
    nextWith (exec (.aes128Ctr 0x0100 0x01B0 0 0x01B0) (put 0x01B0 0xf0f1f2f3f4f5f6f7f8f9fafbfcfdfeff State.reset))
      (fun s => holds s 0x01B0 0xf0f1f2f3f4f5f6f7f8f9fafbfcfdfeff) = true := by decide +kernel
/-- CTR-3. -/
theorem test_ctrInc :
    (ctrInc (blockOf 0x00000000000000000000000000ffffff)).toList =
      (blockOf 0x00000000000000000000000001000000).toList := by decide +kernel

/-! ### Steps -/

/-- P1, step 8: `ret` is handed to MAIN. -/
theorem test_step_mainReturns : nextWith (step { stopping with twCtrl := 0x05 })
    (fun s => s.twPhase == .idle && s.respMain == some (.ret .success)) = true := by decide
/-- R284: the handler runs before the next move. -/
theorem test_step_handler : nextWith (step { flying with twCtrl := 0x85, twStatus := 0x48, script := [.poll] })
    (fun s => s.twResult == .failure && s.context == .main && s.script == [.poll]) = true := by decide
/-- R289: MAIN is blocked in a transaction, and IRQ sends a command only in the handler. -/
theorem test_step_blocked :
    faultOf (step { flying with script := [.command .main [0x80, 1]] }) = some .mainBlocked ∧
      refusalOf (step { flying with script := [.command .main [0x00]] }) = some .twiBusy ∧
      faultOf (step { ready with script := [.command .irq [0x80, 1]] }) = some .outsideHandler := by decide
/-- R289, R136: in the handler a GF command answers IRQ and leaves the event pending, a TWI command is refused. -/
theorem test_step_handlerSends :
    nextWith (step { flying with twCtrl := 0x85, script := [.command .irq [0x80, 1]] })
        (fun s => s.respIrq == some (.val 2) && irqReady s && s.context == .main) = true ∧
      refusalOf (step { flying with twCtrl := 0x85, script := [.command .irq [0x00]] }) = some .twiBusy := by decide
/-- TW-2g at the port. -/
theorem test_step_reserved :
    refusalOf (step { State.reset with script := [.command .main [0x04]] }) = some (.reservedOpcode 0x04) := by decide
/-- A table word placed where `step` takes it, from reset. -/
theorem test_withFetchWord : nextWith (step (State.reset.withFetchWord 16 0x5780))
      (fun s => s.respMain == some (.val 0xAE)) = true ∧
    nextWith (step (State.reset.withFetchWord 8 0x20)) (fun s => s.twResult == .failure) = true := by decide

/-! ### Witnesses: a state and operands that meet the hypotheses of each statement -/

/-- The moves of `ReadStoresExactlyTheBytes`. -/
def readMoves (ds : List Byte) (last : Byte) : List Move :=
  .command .main (encode (.twiRead 0x50 (BitVec.ofNat 8 (ds.length + 1)) 0x0200)).2 ::
  .raise 0x08 0 :: .raise 0x40 0 :: (ds.map (Move.raise 0x50) ++
  [.raise 0x58 last, .poll, .stopComplete, .poll])

/-- The moves of `WriteHandsOverTheBytesInOrder`. -/
def writeMoves (ds : List Byte) : List Move :=
  .command .main (encode (.twiWrite 0x50 (BitVec.ofNat 8 ds.length) 0x0100)).2 ::
  .raise 0x08 0 :: .raise 0x18 0 :: (ds.map (Move.raise 0x28) ++ [.poll, .stopComplete, .poll])

/-- A read about to run: the unit idle after `TWI.INIT`. -/
def readScript (ds : List Byte) (last : Byte) : State := { ready with script := readMoves ds last }

/-- A write about to run. -/
def writeScript (ds : List Byte) : State := { ready with script := writeMoves ds }

theorem ready_inv : Inv ready := by constructor <;> decide
theorem flying_inv : Inv flying := by constructor <;> decide
theorem stopping_inv : Inv stopping := by constructor <;> decide
theorem pending_inv : Inv { flying with twCtrl := 0x85 } := by constructor <;> decide

/-- `DecodeOfEncode`: a command, a recognized event and an unrecognized one. -/
theorem witness_DecodeOfEncode :
    WellFormed (.twiRead 0x7F 255 0xFFFF) = true ∧ WellFormed (.evtStart 7) = true ∧
      WellFormed (.evtOther 0xFF) = true := by decide

/-- `EncodeOfDecode`: a command and an event. -/
theorem witness_EncodeOfDecode :
    decode .cmd [0x02, 0x7F, 0xFF] = .ok (.twiWrite1 0x7F 0xFF) ∧ decode .evt [0xFF] = .ok (.evtOther 0xFF) := by
  decide

/-- `ReservedOpcodesAreRefused`: each of the four grounds, at the edges of the opcode map. -/
theorem witness_ReservedOpcodesAreRefused :
    decodeCmdIn Config.parameters.build [0x04] = .error (.reservedOpcode 0x04) ∧
      decodeCmdIn Config.parameters.build [0xFF] = .error (.reservedOpcode 0xFF) ∧
      decodeCmdIn { keys128 := false, keys256 := true, fastPath := true } [0x5A] = .error (.reservedOpcode 0x5A) ∧
      decodeCmdIn { keys128 := true, keys256 := false, fastPath := true } [0x5C] = .error (.reservedOpcode 0x5C) ∧
      decodeCmdIn { keys128 := true, keys256 := true, fastPath := false } [0x48] = .error (.reservedOpcode 0x48) ∧
      irqReady { ready with script := [.command .irq [0x86, 1]] } = false := by decide

/-- `StepRunsTheCommand`: each of its clauses. -/
theorem witness_StepRunsTheCommand :
    decodeCmd [0x84, 0x53] = .ok (.gfInv 0x53) ∧ decodeCmd [0x00] = .ok .twiInit ∧
      (irqReady ready = false ∧ ready.twPhase = .idle) ∧ isTwiCommand .twiInit = true ∧
      (irqReady flying = false ∧ flying.twPhase ≠ .idle ∧ isTwiCommand (.gfInv 0x53) = false) ∧
      irqReady { flying with twCtrl := 0x85 } = true := by decide

/-- `ResetAtAnyMoment` and `CallerWritesItsMemory`: a reset with an event pending, a store to the last address. -/
theorem witness_OutsideMoves :
    nextWith (step { flying with twCtrl := 0x85, script := [.powerCycle, .poll] })
        (fun s => s.twPhase == .idle && s.twCtrl == 0 && s.script == [.poll]) = true ∧
      Memory.wf flying.buf = true ∧ irqReady { flying with script := [.store 0xFFFF 7] } = false := by decide

/-- `StepRunsTheEvent`. -/
theorem witness_StepRunsTheEvent :
    (0x85 : Byte).getLsbD 7 = true ∧ (0x85 : Byte).getLsbD 2 = true ∧ (0x85 : Byte).getLsbD 0 = true ∧
      nextWith (step { flying with twCtrl := 0x85, twStatus := 0x08 }) (fun s => s.twCtrl == 0x05) = true := by decide

/-- `MainPollsUntilTheResultAndTheStop`: each of its five clauses, with no move left and with a poll next. -/
theorem witness_MainPollsUntilTheResultAndTheStop :
    [ready, flying, { flying with twResult := .failure }, stopping, { stopping with twCtrl := 0x05 }].all (fun s =>
        !irqReady s && s.script == [] && !irqReady { s with script := [.poll, .stopComplete] }) = true ∧
      (stopping.twPhase = .waitStop ∧ stopping.twCtrl.getLsbD 4 = true) ∧ (0x05 : Byte).getLsbD 4 = false := by
  decide

/-- `PeripheralMoves`: an event that can be raised, one while another is pending (the interrupt being masked), one
outside a transaction, and the stop-complete step. -/
theorem witness_PeripheralMoves :
    [{ flying with script := [.raise 0x40 0xFF] }, { flying with twCtrl := 0x80, script := [.raise 0x40 0xFF] },
      { ready with script := [.raise 0x40 0xFF] }, { stopping with script := [.stopComplete] }].all (fun s =>
        !irqReady s) = true ∧
      inFlight flying = true ∧ ctrlIntSet flying.twCtrl = false ∧ inFlight ready = false ∧
      ctrlIntSet ({ flying with twCtrl := 0x80 } : State).twCtrl = true := by decide

/-- `EveryStepKeepsTheInvariant`: a state in a transaction from which a step goes on. -/
theorem witness_EveryStepKeepsTheInvariant :
    Inv { flying with twCtrl := 0x85, twStatus := 0x40, twRemaining := 2 } ∧
      nextWith (step { flying with twCtrl := 0x85, twStatus := 0x40, twRemaining := 2 })
        (fun s => s.twCtrl == 0x45) = true := by
  refine ⟨?_, by decide⟩
  constructor <;> decide

/-- `AddressIsImmutableInFlight`. -/
theorem witness_AddressIsImmutableInFlight :
    flying.twPhase ≠ .idle ∧ stopping.twPhase ≠ .idle ∧
      nextWith (step { flying with twAddr := 0xA1 }) (fun s => s.twAddr == 0xA1) = true := by decide

/-- `InitConfiguresThePeripheral`, its last clause; R315's launch premises of a read that is about to run. -/
theorem witness_Initialised :
    Initialised { ready with twBitrate := Config.parameters.bitrateDiv, twOwnaddr := Config.parameters.ownAddr } ∧
      LaunchPremises { readScript [0xAA] 0x55 with
        twBitrate := Config.parameters.bitrateDiv, twOwnaddr := Config.parameters.ownAddr } 0x0200 2 :=
  ⟨⟨rfl, rfl, by decide, by decide⟩, ⟨rfl, rfl, by decide, by decide⟩, by decide, fun a b h => by
    simp [readScript, readMoves] at h⟩

/-- `UnitsShareNoRegister`: a command of each kind and an event that give a next state. -/
theorem witness_UnitsShareNoRegister :
    nextWith (exec (.gfMul2 1) flying) (fun _ => true) = true ∧ isEvent (.gfMul2 1) = false ∧
      isTwiCommand (.gfMul2 1) = false ∧ answersOnly (.gfMul2 1) = true ∧ nextWith (exec (.evtStart 0) flying) (fun _ => true) = true ∧
      isEvent (.evtStart 0) = true ∧ nextWith (exec .twiInit ready) (fun _ => true) = true ∧
      isTwiCommand .twiInit = true := by decide

/-- `InitConfiguresThePeripheral`, `TransactionsStart`, `BusyUnitRefusesCommands`, `ZeroLength`: an idle unit with
MAIN, a unit in part (e), one in part (f), and the handler. -/
theorem witness_TwiCommands :
    (ready.context = .main ∧ ready.twPhase = .idle) ∧ flying.twPhase ≠ .idle ∧ stopping.twPhase ≠ .idle ∧
      ({ ready with context := .irq } : State).context ≠ .main ∧ (1 : Len) ≠ 0 ∧ (255 : Len) ≠ 0 := by decide

/-- `EventsAreAdmittedInFlightOnly`: an event in flight, one while idle, one after a terminal event. -/
theorem witness_EventsAreAdmittedInFlightOnly :
    isEvent (.evtOther 0) = true ∧ inFlight flying = true ∧ inFlight ready = false ∧
      inFlight { flying with twResult := .failure } = false ∧ inFlight stopping = false := by decide

/-- `StartLoadsTheAddress`, `AcknowledgedWriteSendsTheNextByte`, `DataNackEndsWithSuccess`,
`ReadAddressAckChoosesTheAcknowledge`, `ReceivedByteIsStored`, `LastByteIsStoredAndStopped`,
`AddressNackAndOtherMarkFailure`: a transaction in flight with 0, 1, 2 and 255 bytes left, in a canonical memory. -/
theorem witness_Events :
    ([0, 1, 2, 255] : List Len).all (fun n =>
      let s : State := { flying with twRemaining := n, twCursor := 0xFFFF }
      decide (s.twPhase = .waitResult) && decide (s.twResult = .pending) && Memory.wf s.buf) = true := by decide

/-- `TerminalEvents`: events that end the transaction with success and with failure, and one that does not end it. -/
theorem witness_TerminalEvents :
    nextWith (exec (.evtMtDataAck 0) flying) (fun s => s.twResult == .success) = true ∧
      nextWith (exec (.evtMrSlaNack 0) flying) (fun s => s.twResult == .failure) = true ∧
      nextWith (exec (.evtStart 0) flying) (fun s => s.twResult == .pending) = true := by decide

/-- `ReadStoresExactlyTheBytes`: a read of one byte and of 255 bytes, the ends of its range. -/
theorem witness_ReadStoresExactlyTheBytes :
    Inv (readScript [] 0x7F) ∧ Inv (readScript (List.replicate 254 0xAA) 0x7F) ∧
      (readScript [] 0x7F).twPhase = .idle ∧ ([] : List Byte).length < 255 ∧
      (List.replicate 254 (0xAA : Byte)).length < 255 ∧
      (encode (.twiRead 0x50 (BitVec.ofNat 8 (0 + 1)) 0x0200)).2 = [0x03, 0x50, 0x01, 0x00, 0x02] := by
  refine ⟨?_, ?_, rfl, by decide, by simp only [List.length_replicate]; decide, by decide⟩ <;> constructor <;> decide

/-- `WriteHandsOverTheBytesInOrder`: a write of no byte and of 255 bytes, the ends of its range, and an index `k`. -/
theorem witness_WriteHandsOverTheBytesInOrder :
    Inv (writeScript []) ∧ Inv (writeScript (List.replicate 255 0xAA)) ∧ (writeScript []).twPhase = .idle ∧
      (List.replicate 255 (0xAA : Byte)).length < 256 ∧ 254 < (List.replicate 255 (0xAA : Byte)).length := by
  refine ⟨?_, ?_, rfl, by simp only [List.length_replicate]; decide,
    by simp only [List.length_replicate]; decide⟩ <;> constructor <;> decide

/-- `LogRule`, `AlogRule`, `InverseRule`: nonzero bytes, and an exponent at the top of the range. -/
theorem witness_Gf : (0xF6 : Byte) ≠ 0 ∧ (1 : Byte) ≠ 0 ∧ power 0x03 254 = 0xF6 ∧ mul 0x03 0xF6 = 0x01 := by
  decide +kernel

/-- `SubBytesRule`, `ShiftRowsRule`, `MixColumnsRule`, `InvMixColumnsRule`, `KeySteps128Rule`, `KeySteps256Rule`: a
canonical memory with bytes in it, the last indices, and a column of equal bytes. -/
theorem witness_BlockRules :
    Memory.wf (put 0xFFF8 0x00112233445566778899aabbccddeeff State.reset).buf = true ∧ 15 < 16 ∧ 3 < 4 ∧
      (byteAt (Vector.replicate 16 (0xC6 : Byte)) 12 = byteAt (Vector.replicate 16 (0xC6 : Byte)) 13) := by
  decide +kernel

/-- `AddRoundKeyRule`, `BlockCommands128`, `BlockCommands256`: operands side by side, at the same address, and one
byte into each other, across the top of the address space too. -/
theorem witness_Overlap :
    overlaps 0x20 16 0x30 16 = false ∧ overlaps 0x20 16 0x10 16 = false ∧ overlaps 0x20 16 0x2F 16 = true ∧
      overlaps 0x20 16 0x20 16 = true ∧ overlaps 0xFFF8 16 0x0007 16 = true ∧ overlaps 0xFFF8 16 0x0008 16 = false ∧
      overlaps 0x20 32 0x40 16 = false ∧ overlaps 0x20 32 0x3F 16 = true ∧ overlaps 0x20 32 0x40 32 = false ∧
      overlaps 0x20 32 0x3F 32 = true ∧ Memory.wf State.reset.buf = true := by decide

/-- `ExpandStoresTheRoundKeys`: pointers that are equal, disjoint, and that overlap otherwise. -/
theorem witness_ExpandStoresTheRoundKeys :
    overlaps 0x00F0 16 0x0100 176 = false ∧ overlaps 0x01AF 16 0x0100 176 = true ∧ (0x01AF : Addr) ≠ 0x0100 ∧
      10 ≤ 10 ∧ 176 ≤ ((0x01B0 : Addr) - 0x0100).toNat := by decide

/-- `CounterModeRule`, `CounterModeStreams`: operands that do not overlap, with no block, with two blocks and with the
most blocks the address space leaves room for, and operands that do. -/
theorem witness_CounterMode :
    ctrOverlap 0x0100 0x01B0 0 0x01B0 = false ∧ ctrOverlap 0x0100 0x01B0 2 0x01C0 = false ∧
      ctrOverlap 0x0000 0x00B0 0x0FF4 0x00C0 = false ∧ ctrOverlap 0x0000 0x00B0 0x0FF5 0x00C0 = true ∧
      ctrOverlap 0x0100 0x01B0 (BitVec.ofNat 16 (1 + 1)) 0x01C0 = false ∧ 1 + 1 < 2 ^ 16 := by decide

/-- `CounterModeEqualsTheGenericPath`: a memory that holds a schedule made from a key. -/
theorem witness_CounterModeEqualsTheGenericPath :
    Memory.wf (writeBytes State.reset 0x0100 (expand128 (blockOf 0))).buf = true ∧
      readBytes (writeBytes State.reset 0x0100 (expand128 (blockOf 0))) 0x0100 176 = expand128 (blockOf 0) := by
  have h := stored_writeBytes State.reset 0x0100 (expand128 (blockOf 0)) wf_reset (by omega)
  refine ⟨wf_writeBytes _ _ _ wf_reset, Vector.ext fun i hi => ?_⟩
  have hi' := h.1 i hi
  simpa [readBytes, byteAt, hi] using hi'

end Sys2Proof.Tests
end

section
/-! SUPPORT. What each kind of request leaves alone, as equations of whole states, and what it does to `TW_CTRL`
and to the memory (spec/10_state.md R22, R34, R35, R36, R46, R47). -/

namespace Sys2Proof.Machine

/-! ### Frames -/

/-- `t` with everything the interrupt handler may write taken from `s`: the count, the cursor, the result, the data
register, the control register and `BUF` (R151 to R160). -/
def withHandlerOf (s t : State) : State :=
  { t with
    twRemaining := s.twRemaining, twCursor := s.twCursor, twResult := s.twResult
    twData := s.twData, twCtrl := s.twCtrl, buf := s.buf }

/-- `t` with everything a TWI command may write taken from `s`: the transaction record, the phase, the registers it
writes and MAIN's answer (R130, R131). -/
def withCommandOf (s t : State) : State :=
  { t with
    twAddr := s.twAddr, twRemaining := s.twRemaining, twCursor := s.twCursor, twResult := s.twResult
    twImm := s.twImm, twSrc := s.twSrc, twPhase := s.twPhase, twCtrl := s.twCtrl
    twBitrate := s.twBitrate, twOwnaddr := s.twOwnaddr, respMain := s.respMain }

theorem respond_of_main {s : State} (hc : s.context = .main) (r : Response) :
    respond r s = { s with respMain := some r } := by
  simp [respond, hc]

theorem withWorkingOf_respond (s u : State) (r : Response) :
    withWorkingOf s (respond r u) = respond r (withWorkingOf s u) := by
  unfold respond withWorkingOf
  cases u.context <;> rfl

/-- A request is an event, a command of the TWI unit, or a command of the AES or GF unit (R100, R101). -/
theorem request_kind (i : Instr) :
    isEvent i = true ∨ isTwiCommand i = true ∨ isEvent i = false ∧ isTwiCommand i = false := by
  cases isEvent i <;> cases isTwiCommand i <;> simp

variable {i : Instr} {s t : State}

theorem event_frame (hi : isEvent i = true) (h : exec i s = .next t) : withHandlerOf s t = s := by
  obtain ⟨-, ⟨-, rfl⟩ | ⟨-, rfl⟩ | ⟨-, rfl⟩ | ⟨-, -, rfl⟩ | ⟨-, -, rfl⟩ | ⟨-, rfl⟩ | ⟨-, rfl⟩⟩ :=
    event_cases hi h
  case inr.inl =>
    rw [transmitNext_eq]
    split <;> rfl
  all_goals rfl

theorem twiCommand_frame (hi : isTwiCommand i = true) (h : exec i s = .next t) : withCommandOf s t = s := by
  obtain ⟨hc, -, ⟨-, rfl⟩ | ⟨a, n, p, -, rfl⟩ | ⟨a, b, -, rfl⟩ | ⟨a, n, p, -, -, rfl⟩⟩ := twi_cases hi h
  case inl =>
    rw [respond_of_main]
    · rfl
    · exact hc
  all_goals rfl

/-- No TWI command writes a byte of `BUF` (R132, R133, R134). -/
theorem twiCommand_buf (hi : isTwiCommand i = true) (h : exec i s = .next t) : t.buf = s.buf :=
  (congrArg State.buf (twiCommand_frame hi h) :)

theorem computing_frame (he : isEvent i = false) (hw : isTwiCommand i = false) (h : exec i s = .next t) :
    ∃ r, withWorkingOf s t = respond r s := by
  obtain ⟨u, r, rfl, hu, -⟩ := computing_cases he hw h
  exact ⟨r, by rw [withWorkingOf_respond, hu]⟩

/-- An S-box or GF command does nothing but answer (R47, R191, R192). -/
theorem answersOnly_frame (hi : answersOnly i = true) (h : exec i s = .next t) :
    ∃ v, t = respond (.val v) s := by
  cases i with
  | gfLog x =>
    simp only [exec, execGfLog] at h
    split at h
    · cases h
    · exact ⟨_, (Host.Outcome.next.inj h).symm⟩
  | aesSbox x | aesIsbox x | gfMul2 x | gfDiv2 x | gfAlog x | gfInv x | gfMul x y =>
    exact ⟨_, (Host.Outcome.next.inj h).symm⟩
  | _ => exact absurd hi Bool.false_ne_true

/-! ### The control register -/

/-- The acknowledge of the next byte continues, and requests no STOP (R156). -/
theorem acknowledgeNext_ctrl (s : State) :
    ∃ a, a ≠ .enable ∧ a ≠ .stop ∧ (acknowledgeNext s).twCtrl = ctrlAfter a s.twCtrl := by
  unfold acknowledgeNext
  split
  · exact ⟨.continueAck, by decide, by decide, rfl⟩
  · exact ⟨.continue_, by decide, by decide, rfl⟩

/-- The handler's one write of `TW_CTRL` acknowledges the event, and requests a STOP only with success (R162, R163). -/
theorem event_ctrl (hi : isEvent i = true) (h : exec i s = .next t) :
    ∃ a, a ≠ .enable ∧ t.twCtrl = ctrlAfter a s.twCtrl ∧ (a = .stop → t.twResult = .success) := by
  obtain ⟨-, ⟨-, rfl⟩ | ⟨-, rfl⟩ | ⟨-, rfl⟩ | ⟨-, -, rfl⟩ | ⟨-, -, rfl⟩ | ⟨-, rfl⟩ | ⟨-, rfl⟩⟩ :=
    event_cases hi h
  · exact ⟨.continue_, by decide, rfl, nofun⟩
  · unfold transmitNext
    split
    · exact ⟨.stop, by decide, rfl, fun _ => rfl⟩
    · exact ⟨.continue_, by decide, rfl, nofun⟩
  · obtain ⟨a, hen, hst, ha⟩ := acknowledgeNext_ctrl s
    exact ⟨a, hen, ha, (absurd · hst)⟩
  · obtain ⟨a, hen, hst, ha⟩ := acknowledgeNext_ctrl (storeReceived s)
    exact ⟨a, hen, ha, (absurd · hst)⟩
  · exact ⟨.stop, by decide, rfl, fun _ => rfl⟩
  · exact ⟨.stop, by decide, rfl, fun _ => rfl⟩
  · exact ⟨.none, by decide, rfl, nofun⟩

/-- A request leaves `TW_CTRL` alone or performs one action of R36. -/
theorem exec_ctrl (h : exec i s = .next t) : t.twCtrl = s.twCtrl ∨ ∃ a, t.twCtrl = ctrlAfter a s.twCtrl := by
  obtain he | hw | ⟨he, hw⟩ := request_kind i
  · obtain ⟨a, -, ha, -⟩ := event_ctrl he h
    exact .inr ⟨a, ha⟩
  · obtain ⟨-, -, ⟨-, rfl⟩ | ⟨_, _, _, -, rfl⟩ | ⟨_, _, -, rfl⟩ | ⟨_, _, _, -, -, rfl⟩⟩ := twi_cases hw h
    case inl => exact .inr ⟨.enable, respond_twCtrl _ _⟩
    all_goals exact .inr ⟨.start, rfl⟩
  · obtain ⟨r, hr⟩ := computing_frame he hw h
    exact .inl ((congrArg State.twCtrl hr).trans (respond_twCtrl r s))

/-- No action turns the interrupt off (R36). -/
theorem ctrlAfter_keeps_enabled (a : Action) {c : Byte} (h : ctrlEnSet c = true ∧ ctrlIeSet c = true) :
    ctrlEnSet (ctrlAfter a c) = true ∧ ctrlIeSet (ctrlAfter a c) = true := by
  by_cases ha : a = .none
  · obtain ⟨hen, hie, -⟩ := kept_ctrlAfter_none c
    rw [ha, hen, hie]
    exact h
  · exact enabled_ctrlAfter ha c

theorem exec_keeps_enabled (h : exec i s = .next t)
    (hs : ctrlEnSet s.twCtrl = true ∧ ctrlIeSet s.twCtrl = true) :
    ctrlEnSet t.twCtrl = true ∧ ctrlIeSet t.twCtrl = true := by
  rcases exec_ctrl h with ht | ⟨a, ht⟩
  · rwa [ht]
  · rw [ht]
    exact ctrlAfter_keeps_enabled a hs

theorem exec_keeps_unusedBits (h : exec i s = .next t) (hs : ctrlUnusedClear s.twCtrl = true) :
    ctrlUnusedClear t.twCtrl = true := by
  rcases exec_ctrl h with ht | ⟨a, ht⟩
  · rwa [ht]
  · rw [ht]
    exact unused_ctrlAfter a _ hs

/-! ### The memory -/

/-- Only a receive event writes `BUF`, one byte of it (R155, R157). -/
theorem event_keeps_wf (hi : isEvent i = true) (h : exec i s = .next t) (hs : Memory.wf s.buf = true) :
    Memory.wf t.buf = true := by
  obtain ⟨-, ⟨-, rfl⟩ | ⟨-, rfl⟩ | ⟨-, rfl⟩ | ⟨-, -, rfl⟩ | ⟨-, -, rfl⟩ | ⟨-, rfl⟩ | ⟨-, rfl⟩⟩ :=
    event_cases hi h
  · exact hs
  · rw [transmitNext_eq]
    split <;> exact hs
  · exact hs
  · exact wf_writeByte s s.twCursor s.twData hs
  · exact wf_writeByte s s.twCursor s.twData hs
  · exact hs
  · exact hs

/-- Every request keeps the memory's canonical form. -/
theorem exec_keeps_wf (h : exec i s = .next t) (hs : Memory.wf s.buf = true) : Memory.wf t.buf = true := by
  obtain he | hw | ⟨he, hw⟩ := request_kind i
  · exact event_keeps_wf he h hs
  · rwa [twiCommand_buf hw h]
  · obtain ⟨u, r, rfl, -, hu⟩ := computing_cases he hw h
    rw [respond_buf]
    exact hu hs

end Sys2Proof.Machine
end

section
/-! SUPPORT. The machine's invariant holds after reset (O13), and every step of every agent keeps it (O14). -/

namespace Sys2Proof.Machine

variable {i : Instr} {s t : State}

/-- Reset leaves every named bit of `TW_CTRL` clear and lists nothing in `BUF`, so each clause holds. -/
theorem inv_reset : Inv State.reset where
  memory := rfl
  unusedBits := by decide
  between := rfl
  enabled h := absurd rfl h
  pendingEvent h := absurd h (by decide)
  stopRequest h := absurd h (by decide)
  definite h := absurd h (by decide)

/-- The invariant speaks of the memory, `TW_CTRL`, the phase and the result only. -/
theorem inv_congr (h : Inv s) (hm : Memory.wf t.buf = true) (hx : t.context = .main) (hc : t.twCtrl = s.twCtrl)
    (hp : t.twPhase = s.twPhase) (hr : t.twResult = s.twResult) : Inv t where
  memory := hm
  unusedBits := hc ▸ h.unusedBits
  between := hx
  enabled := by rw [hp, hc]; exact h.enabled
  pendingEvent := by
    rw [hc, inFlight_iff, hp, hr, ← inFlight_iff]
    exact h.pendingEvent
  stopRequest := by rw [hc, hp, hr]; exact h.stopRequest
  definite := by rw [hp, hr]; exact h.definite

/-- What the handler and the start of a transaction leave: MAIN waits, no event is pending, and a STOP is requested
with success only. -/
theorem inv_of_waitResult (hm : Memory.wf t.buf = true) (hx : t.context = .main) (hp : t.twPhase = .waitResult)
    (hu : ctrlUnusedClear t.twCtrl = true) (he : ctrlEnSet t.twCtrl = true ∧ ctrlIeSet t.twCtrl = true)
    (hi : ctrlIntSet t.twCtrl = false) (hs : ctrlStoSet t.twCtrl = true → t.twResult = .success) : Inv t where
  memory := hm
  unusedBits := hu
  between := hx
  enabled _ := he
  pendingEvent h := absurd h (by simp [hi])
  stopRequest h := ⟨by simp [hp], hs h⟩
  definite h := absurd h (by simp [hp])

/-- While a transaction is in flight no STOP is requested. -/
theorem Inv.sto_of_inFlight (h : Inv s) (hf : inFlight s = true) : ctrlStoSet s.twCtrl = false := by
  refine Bool.eq_false_of_not_eq_true fun hsto => ?_
  obtain ⟨-, hr⟩ := (inFlight_iff s).1 hf
  simp [(h.stopRequest hsto).2] at hr

/-- While no transaction is in flight no event is pending. -/
theorem Inv.int_of_not_inFlight (h : Inv s) (hf : ¬ inFlight s = true) : ctrlIntSet s.twCtrl = false :=
  Bool.eq_false_of_not_eq_true fun hint => hf (h.pendingEvent hint)

/-- An event keeps the invariant: its action acknowledges it, and requests a STOP with success only. -/
theorem event_keeps_inv (hi : isEvent i = true) (hs : Inv (leaveContext s)) (h : exec i s = .next t) :
    Inv (leaveContext t) := by
  obtain ⟨hf, -⟩ := event_cases hi h
  obtain ⟨hp, -⟩ := (inFlight_iff s).1 hf
  obtain ⟨a, hen, hc, hstop⟩ := event_ctrl hi h
  have hpt : t.twPhase = s.twPhase := (congrArg State.twPhase (event_frame hi h) :)
  have henabled := exec_keeps_enabled h (hs.enabled (by simp [hp]))
  refine inv_of_waitResult (exec_keeps_wf h hs.memory :) rfl (hpt.trans hp)
    (exec_keeps_unusedBits h hs.unusedBits :) henabled ?_ ?_
  · simp only [leaveContext_twCtrl, hc, int_ctrlAfter hen]
  · intro hsto
    refine hstop (by_contra fun hns => ?_)
    simp only [leaveContext_twCtrl, hc] at hsto
    have hold : ctrlStoSet s.twCtrl = false := hs.sto_of_inFlight hf
    by_cases hn : a = .none
    · subst hn
      obtain ⟨-, -, hkept, -⟩ := kept_ctrlAfter_none s.twCtrl
      simp [hkept, hold] at hsto
    · simp [sto_ctrlAfter hn, hns] at hsto

/-- Parts (a) to (d) of a transaction establish the invariant over any canonical memory. -/
theorem inv_startTransaction (a : BitVec 7) (rw : Bool) (n : Len) (p : Addr) (src : Bool) (b : Byte)
    (hm : Memory.wf s.buf = true) (hu : ctrlUnusedClear s.twCtrl = true) :
    Inv (leaveContext (startTransaction a rw n p src b s)) :=
  inv_of_waitResult hm rfl rfl (unused_ctrlAfter .start _ hu) (enabled_ctrlAfter (by decide) _)
    (int_ctrlAfter (by decide) _) fun h => absurd h (by simp [startTransaction, sto_ctrlAfter])

theorem twiCommand_keeps_inv (hi : isTwiCommand i = true) (hs : Inv (leaveContext s)) (h : exec i s = .next t) :
    Inv (leaveContext t) := by
  obtain ⟨-, hp, ⟨-, rfl⟩ | ⟨a, n, p, -, rfl⟩ | ⟨a, b, -, rfl⟩ | ⟨a, n, p, -, -, rfl⟩⟩ := twi_cases hi h
  case inl =>
    have hint : ctrlIntSet s.twCtrl = false := hs.int_of_not_inFlight (by simp [inFlight_iff, hp])
    exact {
      memory := (exec_keeps_wf h hs.memory :)
      unusedBits := (exec_keeps_unusedBits h hs.unusedBits :)
      between := rfl
      enabled := fun hne => absurd hp (by simpa using hne)
      pendingEvent := fun hq => absurd hq (by simp [int_ctrlAfter_enable, hint])
      stopRequest := fun hq => absurd hq (by simp [sto_ctrlAfter])
      definite := fun hq => absurd hq (by simp [hp]) }
  all_goals exact inv_startTransaction _ _ _ _ _ _ hs.memory hs.unusedBits

theorem computing_keeps_inv (he : isEvent i = false) (hw : isTwiCommand i = false) (hs : Inv (leaveContext s))
    (h : exec i s = .next t) : Inv (leaveContext t) := by
  obtain ⟨r, hr⟩ := computing_frame he hw h
  exact inv_congr hs (exec_keeps_wf h hs.memory :) rfl
    ((congrArg State.twCtrl hr).trans (respond_twCtrl r s))
    ((congrArg State.twPhase hr).trans (respond_twPhase r s))
    ((congrArg State.twResult hr).trans (respond_twResult r s))

/-- Every request, taken in any context, keeps the invariant. -/
theorem exec_keeps_inv (hs : Inv (leaveContext s)) (h : exec i s = .next t) : Inv (leaveContext t) := by
  obtain he | hw | ⟨he, hw⟩ := request_kind i
  · exact event_keeps_inv he hs h
  · exact twiCommand_keeps_inv hw hs h
  · exact computing_keeps_inv he hw hs h

/-- A poll goes to part (f) with a definite result, and to idle with `STO` clear (R131). -/
theorem mainPoll_keeps_inv (hs : Inv s) : Inv (mainPoll s) := by
  unfold mainPoll
  split
  · exact hs
  · next hp =>
    split
    · exact hs
    · next hr =>
      have hint : ctrlIntSet s.twCtrl = false := hs.int_of_not_inFlight (by simp [inFlight_iff, hr])
      exact {
        memory := hs.memory
        unusedBits := hs.unusedBits
        between := hs.between
        enabled := fun _ => hs.enabled (by simp [hp])
        pendingEvent := fun hq => absurd hq (by simp [hint])
        stopRequest := fun hq => ⟨by simp, (hs.stopRequest hq).2⟩
        definite := fun _ => hr }
  · next hp =>
    split
    · exact hs
    · next hsto =>
      have hint : ctrlIntSet s.twCtrl = false := hs.int_of_not_inFlight (by simp [inFlight_iff, hp])
      exact {
        memory := hs.memory
        unusedBits := hs.unusedBits
        between := hs.between
        enabled := fun hq => absurd rfl hq
        pendingEvent := fun hq => absurd hq (by simp [hint])
        stopRequest := fun hq => absurd hq hsto
        definite := fun hq => absurd hq (by simp) }

theorem periphStopComplete_keeps_inv (hs : Inv s) : Inv (periphStopComplete s) := by
  obtain ⟨hsto, hen, hie, hint, hun⟩ := kept_clearSto s.twCtrl
  exact {
    memory := hs.memory
    unusedBits := hun.trans hs.unusedBits
    between := hs.between
    enabled := fun hq => by rw [periphStopComplete_twCtrl, hen, hie]; exact hs.enabled hq
    pendingEvent := fun hq => hs.pendingEvent (hint.symm.trans hq)
    stopRequest := fun hq => absurd hq (by simp [hsto])
    definite := hs.definite }

/-- PERIPH raises an event in flight only (R291, R296). -/
theorem periphRaise_keeps_inv {status data : Byte} (hs : Inv s) (h : periphRaise status data s = .next t) :
    Inv t := by
  obtain ⟨hf, -, rfl⟩ := periphRaise_cases h
  obtain ⟨-, hen, hie, hsto, hun⟩ := kept_setInt s.twCtrl
  exact {
    memory := hs.memory
    unusedBits := hun.trans hs.unusedBits
    between := hs.between
    enabled := fun hq => by rw [hen, hie]; exact hs.enabled hq
    pendingEvent := fun _ => hf
    stopRequest := fun hq => hs.stopRequest (hsto.symm.trans hq)
    definite := hs.definite }

/-- The moves still to come and the context a request is taken in are nothing to the invariant. -/
theorem Inv.withScript (hs : Inv s) (moves : List Move) : Inv { s with script := moves } :=
  inv_congr hs hs.memory hs.between rfl rfl rfl

theorem Inv.enterContext (hs : Inv s) (c : Context) : Inv (leaveContext (enterContext c s)) :=
  inv_congr hs hs.memory rfl rfl rfl rfl

/-- Settles O13: reset meets the invariant. -/
theorem resetMeetsTheInvariant : Obligations.ResetMeetsTheInvariant := inv_reset

/-- Settles O14, by the cases of one step: a reset, the handler, a command, and the moves of MAIN, PERIPH and the
caller each keep the invariant. -/
theorem everyStepKeepsTheInvariant : Obligations.EveryStepKeepsTheInvariant := by
  intro s t hs h
  obtain ⟨-, rfl⟩ | ⟨-, ⟨-, -, u, hu, rfl⟩ | ⟨c, moves, bytes, i, u, -, -, -, hu, rfl⟩ | ⟨-, hmove⟩⟩ := step_cases h
  · exact inv_reset.withScript _
  · exact exec_keeps_inv (hs.enterContext .irq) hu
  · exact exec_keeps_inv ((hs.withScript moves).enterContext c) hu
  obtain ⟨-, rfl⟩ | ⟨moves, ⟨-, rfl⟩ | ⟨-, rfl⟩ | ⟨a, b, -, rfl⟩ | ⟨status, data, -, hr⟩⟩ := hmove
  · exact mainPoll_keeps_inv hs
  · exact mainPoll_keeps_inv (hs.withScript moves)
  · exact periphStopComplete_keeps_inv (hs.withScript moves)
  · exact inv_congr hs (wf_writeByte _ a b hs.memory) hs.between rfl rfl rfl
  · exact periphRaise_keeps_inv (hs.withScript moves) hr

end Sys2Proof.Machine
end

section
/-! SUPPORT. Reset (O10), the address of a transaction in flight (O15), the separation of the units (O16), what
`TWI.INIT` sets up and how long it lasts (O17). -/

namespace Sys2Proof.Machine

variable {i : Instr} {s t : State}

/-- Settles O10: each clause is read off the reset state, whose script is empty, so that a step is a poll of idle
MAIN. -/
theorem resetLeavesTheUnitIdle : Obligations.ResetLeavesTheUnitIdle := by
  refine ⟨rfl, ?_, ?_, ?_, ?_, ?_, ?_, ?_, rfl⟩ <;> decide

/-! ### The address in flight -/

/-- Only a TWI command writes the address, and an idle unit alone takes one (R136). -/
theorem exec_keeps_address (hp : s.twPhase ≠ .idle) (h : exec i s = .next t) : t.twAddr = s.twAddr := by
  obtain he | hw | ⟨he, hw⟩ := request_kind i
  · exact (congrArg State.twAddr (event_frame he h) :)
  · obtain ⟨-, hidle, -⟩ := twi_cases hw h
    exact absurd hidle hp
  · obtain ⟨r, hr⟩ := computing_frame he hw h
    exact (congrArg State.twAddr hr).trans (respond_twAddr r s)

/-- Settles O15, by the cases of one step: of the agents' moves only a request could write the address. -/
theorem addressIsImmutableInFlight : Obligations.AddressIsImmutableInFlight := by
  intro s t hp hpc h
  obtain ⟨hreset, -⟩ | ⟨-, ⟨-, -, u, hu, rfl⟩ | ⟨c, moves, bytes, i, u, -, -, -, hu, rfl⟩ | ⟨-, hmove⟩⟩ :=
    step_cases h
  · simp [powerFails_eq_false hpc] at hreset
  · exact exec_keeps_address (s := enterContext .irq s) (t := u) hp hu
  · exact exec_keeps_address (s := enterContext c { s with script := moves }) (t := u) hp hu
  obtain ⟨-, rfl⟩ | ⟨moves, ⟨-, rfl⟩ | ⟨-, rfl⟩ | ⟨a, b, -, rfl⟩ | ⟨status, data, -, hr⟩⟩ := hmove
  · exact mainPoll_twAddr s
  · exact mainPoll_twAddr _
  · rfl
  · rfl
  · obtain ⟨-, -, rfl⟩ := periphRaise_cases hr
    rfl

/-! ### The units -/

/-- An AES or GF command touches no register of the TWI unit or of the peripheral (R46, R47, R248). -/
theorem computing_keeps_twi (he : isEvent i = false) (hw : isTwiCommand i = false) (h : exec i s = .next t) :
    SameRecord s t ∧ SamePeripheral s t := by
  obtain ⟨r, hr⟩ := computing_frame he hw h
  have key {α : Type} (f : State → α) (hf : f (respond r s) = f s) : f (withWorkingOf s t) = f s := by
    rw [hr, hf]
  exact ⟨⟨key _ (respond_twAddr r s), key _ (respond_twRemaining r s), key _ (respond_twCursor r s),
      key _ (respond_twResult r s), key _ (respond_twImm r s), key _ (respond_twSrc r s), key _ (respond_twPhase r s)⟩,
    key _ (respond_twStatus r s), key _ (respond_twData r s), key _ (respond_twCtrl r s),
    key _ (respond_twBitrate r s), key _ (respond_twOwnaddr r s)⟩

/-- No TWI command and no event touches a working register of the AES unit (R46). -/
theorem twi_keeps_working (hi : isEvent i = true ∨ isTwiCommand i = true) (h : exec i s = .next t) :
    SameWorking s t := by
  rcases hi with he | hw
  · have key {α : Type} (f : State → α) : f (withHandlerOf s t) = f s := congrArg f (event_frame he h)
    exact ⟨key State.st, key State.rk, key State.rcon, key State.round, key State.ctr, key State.sched, key State.n⟩
  · have key {α : Type} (f : State → α) : f (withCommandOf s t) = f s := congrArg f (twiCommand_frame hw h)
    exact ⟨key State.st, key State.rk, key State.rcon, key State.round, key State.ctr, key State.sched, key State.n⟩

/-- A request changes neither the context it runs in nor the moves still to come. -/
theorem exec_keeps_context_script (h : exec i s = .next t) : t.context = s.context ∧ t.script = s.script := by
  obtain he | hw | ⟨he, hw⟩ := request_kind i
  · exact ⟨(congrArg State.context (event_frame he h) :), (congrArg State.script (event_frame he h) :)⟩
  · exact ⟨(congrArg State.context (twiCommand_frame hw h) :), (congrArg State.script (twiCommand_frame hw h) :)⟩
  · obtain ⟨r, hr⟩ := computing_frame he hw h
    exact ⟨(congrArg State.context hr).trans (respond_context r s),
      (congrArg State.script hr).trans (respond_script r s)⟩

/-- Settles O16: the frames of the three kinds of request. -/
theorem unitsShareNoRegister : Obligations.UnitsShareNoRegister := fun _ _ _ h =>
  ⟨fun he hw => computing_keeps_twi he hw h, fun ha => answersOnly_frame ha h, fun hi => twi_keeps_working hi h,
    fun hw => twiCommand_buf hw h, exec_keeps_context_script h⟩

/-! ### `TWI.INIT` -/

/-- `TWI.INIT` on an idle unit, field by field (R130). -/
theorem twiInit_eq (hc : s.context = .main) (hp : s.twPhase = .idle) :
    exec .twiInit s = .next { s with
      twBitrate := Config.parameters.bitrateDiv, twOwnaddr := Config.parameters.ownAddr
      twCtrl := ctrlAfter .enable s.twCtrl, respMain := some .done } := by
  simp [exec, execTwiInit, twiAccepts_of_idle hc hp, act, respond, hc]

theorem twiAccepts_eq_false (h : ¬(s.context = .main ∧ s.twPhase = .idle)) : twiAccepts s = false := by
  simpa [twiAccepts] using h

/-- `ACT_ENABLE` clears `EA` and `STA`, and a second one changes nothing (R36, R130). -/
theorem ctrlAfter_enable (c : Byte) :
    ctrlEaSet (ctrlAfter .enable c) = false ∧ ctrlStaSet (ctrlAfter .enable c) = false ∧
      ctrlAfter .enable (ctrlAfter .enable c) = ctrlAfter .enable c := by
  revert c; decide +kernel

/-- A request leaves the divisor and the own address as `TWI.INIT` writes them (R34, R35). -/
theorem exec_keeps_configuration (h : exec i s = .next t) (hb : s.twBitrate = Config.parameters.bitrateDiv)
    (ho : s.twOwnaddr = Config.parameters.ownAddr) :
    t.twBitrate = Config.parameters.bitrateDiv ∧ t.twOwnaddr = Config.parameters.ownAddr := by
  obtain he | hw | ⟨he, hw⟩ := request_kind i
  · have hf := event_frame he h
    exact ⟨(congrArg State.twBitrate hf).trans hb, (congrArg State.twOwnaddr hf).trans ho⟩
  · obtain ⟨-, -, ⟨-, rfl⟩ | ⟨_, _, _, -, rfl⟩ | ⟨_, _, -, rfl⟩ | ⟨_, _, _, -, -, rfl⟩⟩ := twi_cases hw h
    case inl => exact ⟨respond_twBitrate _ _, respond_twOwnaddr _ _⟩
    all_goals exact ⟨hb, ho⟩
  · obtain ⟨-, -, -, -, hb', ho'⟩ := computing_keeps_twi he hw h
    exact ⟨hb'.trans hb, ho'.trans ho⟩

theorem exec_keeps_initialised (hs : Initialised s) (h : exec i s = .next t) : Initialised t := by
  obtain ⟨hb, ho, hen⟩ := hs
  obtain ⟨hb', ho'⟩ := exec_keeps_configuration h hb ho
  exact ⟨hb', ho', exec_keeps_enabled h hen⟩

/-- What `TWI.INIT` set up lasts until a reset (R139, R315). -/
theorem step_keeps_initialised (hs : Initialised s) (hpc : ∀ moves, s.script ≠ .powerCycle :: moves)
    (h : step s = .next t) : Initialised t := by
  obtain ⟨hreset, -⟩ | ⟨-, ⟨-, -, u, hu, rfl⟩ | ⟨c, moves, bytes, i, u, -, -, -, hu, rfl⟩ | ⟨-, hmove⟩⟩ :=
    step_cases h
  · simp [powerFails_eq_false hpc] at hreset
  · exact exec_keeps_initialised (s := enterContext .irq s) (t := u) hs hu
  · exact exec_keeps_initialised (s := enterContext c { s with script := moves }) (t := u) hs hu
  obtain ⟨-, rfl⟩ | ⟨moves, ⟨-, rfl⟩ | ⟨-, rfl⟩ | ⟨a, b, -, rfl⟩ | ⟨status, data, -, hr⟩⟩ := hmove
  · simpa [Initialised] using hs
  · simpa [Initialised] using hs
  · obtain ⟨-, hen, hie, -⟩ := kept_clearSto s.twCtrl
    simpa [Initialised, hen, hie] using hs
  · exact hs
  · obtain ⟨-, -, rfl⟩ := periphRaise_cases hr
    obtain ⟨-, hen, hie, -⟩ := kept_setInt s.twCtrl
    simpa [Initialised, hen, hie] using hs

/-- Settles O17: `TWI.INIT` field by field, the bits of `ACT_ENABLE`, and their persistence. -/
theorem initConfiguresThePeripheral : Obligations.InitConfiguresThePeripheral := by
  intro s
  refine ⟨fun hc hp => ⟨_, twiInit_eq hc hp, rfl, ?_⟩, fun h => ?_, fun t => step_keeps_initialised⟩
  · obtain ⟨hea, hsta, htwice⟩ := ctrlAfter_enable s.twCtrl
    obtain ⟨hen, hie⟩ := enabled_ctrlAfter (a := .enable) (by decide) s.twCtrl
    refine ⟨hen, hie, hea, hsta, sto_ctrlAfter (by decide) _, int_ctrlAfter_enable _, ?_, rfl, rfl, hen, hie⟩
    rw [twiInit_eq]
    · simp only [htwice]
    · exact hc
    · exact hp
  · simp [exec, execTwiInit, twiAccepts_eq_false h]

end Sys2Proof.Machine
end

section
/-! SUPPORT. The TWI unit's rules field by field: how a transaction starts (O18) and what an event does to it in
flight (O22 to O27). -/

namespace Sys2Proof.Machine

/-! ### The words of a transaction -/

/-- R105: the address byte is twice the device address, plus 1 for a read. -/
theorem addressByte_eq (a : BitVec 7) (rw : Bool) :
    addressByte a rw = BitVec.ofNat 8 (2 * a.toNat + rw.toNat) := by
  revert a rw; decide +kernel

/-- R24: the cursor advances modulo 2^`PTR_W`. -/
theorem addrAdd_one (a : Addr) : addrAdd a 1 = BitVec.ofNat 16 (a.toNat + 1) := by
  simp [addrAdd, BitVec.ofNat_add]

theorem toNat_sub_one {n : Len} (h : n ≠ 0) : (n - 1).toNat = n.toNat - 1 := by
  have hn : n.toNat ≠ 0 := fun h0 => h (BitVec.eq_of_toNat_eq h0)
  exact BitVec.toNat_sub_of_le (by simp only [BitVec.le_def]; exact Nat.one_le_iff_ne_zero.2 hn)

/-- R23: a count that is not 0 decrements without wrapping. -/
theorem len_sub_one {n : Len} (h : n ≠ 0) : n - 1 = BitVec.ofNat 8 (n.toNat - 1) := by
  rw [← toNat_sub_one h, BitVec.ofNat_toNat, BitVec.setWidth_eq]

/-! ### The start of a transaction -/

/-- Parts (a) to (d) of R131, field by field. -/
theorem startTransaction_eq (a : BitVec 7) (rw : Bool) (n : Len) (p : Addr) (src : Bool) (b : Byte) (s : State) :
    startTransaction a rw n p src b s = { s with
      twAddr := BitVec.ofNat 8 (2 * a.toNat + rw.toNat), twRemaining := n, twCursor := p, twSrc := src
      twImm := if src then b else s.twImm, twResult := .pending, twCtrl := 0x25, twPhase := .waitResult
      respMain := none } := by
  simp [startTransaction, act, addressByte_eq, ctrlAfter_values]

/-- Settles O18: an idle unit takes each of the three commands, which is then parts (a) to (d). -/
theorem transactionsStart : Obligations.TransactionsStart := by
  intro s addr7 len ptr byte hc hp
  have hacc := twiAccepts_of_idle hc hp
  refine ⟨?_, ?_, fun hlen => ?_⟩
  · simp [exec, execTwiWrite, hacc, startTransaction_eq]
  · simp [exec, execTwiWrite1, hacc, startTransaction_eq]
  · exact (if_neg hlen).trans (by simp [hacc, startTransaction_eq])

/-! ### Events in flight -/

/-- Settles O22: the address byte is loaded and the transaction continues. -/
theorem startLoadsTheAddress : Obligations.StartLoadsTheAddress := by
  intro s low hp hr
  simp [exec, execEvtStart, admitted_of_inFlight hp hr, act, ctrlAfter_values]

/-- Settles O23: `MT_SLA_ACK` and `MT_DATA_ACK` are one rule (R153), which branches on the count. -/
theorem acknowledgedWriteSendsTheNextByte : Obligations.AcknowledgedWriteSendsTheNextByte := by
  intro s low i hi hp hr
  have hrule : exec i s = .next (transmitNext s) := by
    rcases hi with rfl | rfl <;> exact admitted_of_inFlight hp hr _
  rw [hrule, transmitNext_eq]
  refine ⟨fun hn => ?_, fun hz => ?_⟩
  · rw [if_neg hn, addrAdd_one, len_sub_one hn]
    rfl
  · rw [if_pos hz]

/-- Settles O24: the rule is `ACT_STOP` and `SUCCESS`. -/
theorem dataNackEndsWithSuccess : Obligations.DataNackEndsWithSuccess := by
  intro s low hp hr
  rw [← stopSuccess_eq]
  exact admitted_of_inFlight hp hr _

/-- Settles O25: the rule is the choice of the next acknowledge. -/
theorem readAddressAckChoosesTheAcknowledge : Obligations.ReadAddressAckChoosesTheAcknowledge := by
  intro s low hp hr
  rw [← acknowledgeNext_eq]
  exact admitted_of_inFlight hp hr _

/-! ### Receiving -/

/-- A receive event in flight stores the byte and goes on, or is refused at a count of 0 (R155, R157). -/
theorem receive_of_ne_zero {s : State} (hn : s.twRemaining ≠ 0) (f : State → State) :
    receive s f = .next (f (storeReceived s)) :=
  if_neg hn

theorem receive_of_zero {s : State} (hz : s.twRemaining = 0) (f : State → State) :
    receive s f = .refused .readOverrun :=
  if_pos hz

/-- Storing a received byte, field by field beside `BUF`. -/
theorem storeReceived_eq {s : State} (hn : s.twRemaining ≠ 0) :
    storeReceived s = { s with
      buf := (storeReceived s).buf
      twCursor := BitVec.ofNat 16 (s.twCursor.toNat + 1)
      twRemaining := BitVec.ofNat 8 (s.twRemaining.toNat - 1) } := by
  rw [← addrAdd_one, ← len_sub_one hn]
  rfl

/-- The received byte reads at the cursor, and every other byte reads as before. -/
theorem readByte_storeReceived (s : State) (hm : Memory.wf s.buf = true) :
    readByte (storeReceived s) s.twCursor = s.twData ∧
      ∀ a, a ≠ s.twCursor → readByte (storeReceived s) a = readByte s a :=
  ⟨readByte_writeByte_same s s.twCursor s.twData hm, fun _ ha => readByte_writeByte_other s s.twData ha⟩

/-- Settles O26: the byte is stored, then the next acknowledge is chosen by the new count. -/
theorem receivedByteIsStored : Obligations.ReceivedByteIsStored := by
  intro s low hp hr hm
  have hrule : exec (.evtMrDataAck low) s = receive s acknowledgeNext := admitted_of_inFlight hp hr _
  rw [hrule]
  refine ⟨fun hn => ?_, fun hz => receive_of_zero hz _⟩
  refine ⟨_, receive_of_ne_zero hn _, ?_, readByte_storeReceived s hm⟩
  have hcount : (storeReceived s).twRemaining.toNat = s.twRemaining.toNat - 1 := toNat_sub_one hn
  rw [acknowledgeNext_eq, hcount]
  conv_lhs => rw [storeReceived_eq hn]

/-- Settles O27: the byte is stored, then the STOP is requested and success marked. -/
theorem lastByteIsStoredAndStopped : Obligations.LastByteIsStoredAndStopped := by
  intro s low hp hr hm
  have hrule : exec (.evtMrDataNack low) s = receive s stopSuccess := admitted_of_inFlight hp hr _
  rw [hrule]
  refine ⟨fun hn => ?_, fun hz => receive_of_zero hz _⟩
  refine ⟨_, receive_of_ne_zero hn _, ?_, readByte_storeReceived s hm⟩
  rw [stopSuccess_eq]
  conv_lhs => rw [storeReceived_eq hn]

end Sys2Proof.Machine
end

section
/-! SUPPORT. The three 128-bit block commands as commands on `BUF` (spec/46_aes_block.md R240, R241, R242), O48. -/

namespace Sys2Proof.Machine

/-- R41: a 128-bit operation leaves `rk[16..31]` as it was. -/
theorem byteAt_withLow_high (rk : Key256) (k : Block) {i : Nat} (hi : 16 ≤ i) :
    byteAt (withLow rk k) i = byteAt rk i := by
  by_cases h : i < 32
  · simp [byteAt, withLow, h, Nat.not_lt.2 hi]
  · simp [byteAt, h]

/-- The forward steps from key block `j` give the key blocks after it, with their constants (R220, R227). -/
theorem steps128_keyBlock128 (n j : Nat) (key : Block) :
    steps128 n (keyBlock128 j key) (rconAt j) = (keyBlock128 (j + n) key, rconAt (j + n)) := by
  induction n generalizing j with
  | zero => rfl
  | succ n ih =>
    rw [steps128, ← Nat.add_assoc, Nat.add_right_comm]
    exact ih (j + 1)

/-- R242: the derived key is key block 10. -/
theorem derive128_fst (key : Block) : (derive128 key).1 = keyBlock128 10 key := by
  have h : steps128 10 key 0x01 = (keyBlock128 (0 + 10) key, rconAt (0 + 10)) := steps128_keyBlock128 10 0 key
  rw [derive128, h]

/-- The end of a 128-bit block operation: the result is stored, and beside it only the working registers change,
`rk[16..31]` not among them (R41, R46). -/
theorem finish128_spec (w : Work128) (round : BitVec 4) (p : Addr) (s : State) (hm : Memory.wf s.buf = true) :
    Stored s (finish128 w round p s) p w.st ∧
      { finish128 w round p s with
        buf := s.buf, st := s.st, rk := s.rk, rcon := s.rcon, round := s.round } = respond .done s ∧
      ∀ i, 16 ≤ i → byteAt (finish128 w round p s).rk i = byteAt s.rk i := by
  refine ⟨stored_respond _ _ _ rfl hm (by decide), ?_, fun i hi => ?_⟩
  · unfold finish128 respond writeBytes
    cases s.context <;> rfl
  · rw [finish128, respond_rk, writeBytes_rk, byteAt_withLow_high _ _ hi]

/-- `AES128.DERIVE` where it is not refused: key block 10 is stored, and beside it only the working registers of the
key change, `rk[16..31]` not among them (R41, R242). -/
theorem derive128_spec {k p : Addr} {s : State} (hk : deriveOverlap k p 16 = false) (hm : Memory.wf s.buf = true) :
    ∃ t, exec (.aes128Derive k p) s = .next t ∧
      Stored s t p (keyBlock128 10 (readBytes s k 16)) ∧
      { t with buf := s.buf, rk := s.rk, rcon := s.rcon, round := s.round } = respond .done s ∧
      ∀ i, 16 ≤ i → byteAt t.rk i = byteAt s.rk i := by
  refine ⟨_, if_neg (by simp [hk]), ?_, ?_, fun i hi => ?_⟩
  · rw [← derive128_fst]
    exact stored_respond _ _ _ rfl hm (by decide)
  · unfold respond writeBytes
    cases s.context <;> rfl
  · rw [respond_rk, writeBytes_rk, byteAt_withLow_high _ _ hi]

/-- Settles O48: the operands decide whether a command is refused; where it is not, its end says what it stores. -/
theorem blockCommands128 : Obligations.BlockCommands128 := by
  intro s k p hm
  refine ⟨fun hov => ⟨?_, ?_⟩, fun hk => derive128_spec ?_ hm, fun hov => ⟨?_, ?_, fun hne => ?_⟩⟩
  · exact ⟨_, if_neg (by simp [hov]), finish128_spec _ 10 p s hm⟩
  · exact ⟨_, if_neg (by simp [hov]), finish128_spec _ 1 p s hm⟩
  · rcases hk with rfl | hov
    · simp [deriveOverlap]
    · simp [deriveOverlap, hov]
  · exact if_pos hov
  · exact if_pos hov
  · exact if_pos (by simp [deriveOverlap, hov, hne])

end Sys2Proof.Machine
end

section
/-! SUPPORT. The caller's memory: when two operands share an address (spec/20_memory.md R88, R89, O60), and a byte the
caller writes (R70, O12). -/

namespace Sys2Proof.Machine

/-! ### Operands that share an address -/

/-- R15, R89: an address of an operand is its base plus an offset, modulo 2^`PTR_W`. -/
theorem addrAdd_eq_ofNat (a : Addr) (i : Nat) : addrAdd a i = BitVec.ofNat 16 (a.toNat + i) := by
  simp [addrAdd, BitVec.ofNat_add]

/-- One operand begins inside the other. -/
theorem overlaps_iff (a b : Addr) (n m : Nat) :
    overlaps a n b m = true ↔ 0 < n ∧ 0 < m ∧ ((b - a).toNat < n ∨ (a - b).toNat < m) := by
  simp [overlaps, and_assoc]

/-- Where offsets from two bases meet, one of them reaches the other base. -/
theorem sub_le_of_addrAdd_eq {a b : BitVec 16} {i j : Nat}
    (h : BitVec.ofNat 16 (a.toNat + i) = BitVec.ofNat 16 (b.toNat + j)) :
    (b - a).toNat ≤ i ∨ (a - b).toNat ≤ j := by
  have hsum : (a.toNat + i) % 65536 = (b.toNat + j) % 65536 := by simpa using congrArg BitVec.toNat h
  have ha := a.isLt
  have hb := b.isLt
  simp only [BitVec.toNat_sub]
  omega

/-- Settles O60: operands that overlap share the base of one of them, and a shared address lies at or above one of
the bases in both. -/
theorem overlapIsASharedAddress : Obligations.OverlapIsASharedAddress := by
  intro a b n m
  rw [overlaps_iff]
  constructor
  · rintro ⟨hn, hm, h | h⟩
    · refine ⟨(b - a).toNat, h, 0, hm, ?_⟩
      rw [← addrAdd_eq_ofNat, ← addrAdd_eq_ofNat, addrAdd_of_sub, addrAdd_zero]
    · refine ⟨0, hn, (a - b).toNat, h, ?_⟩
      rw [← addrAdd_eq_ofNat, ← addrAdd_eq_ofNat, addrAdd_of_sub, addrAdd_zero]
  · rintro ⟨i, hi, j, hj, h⟩
    refine ⟨by omega, by omega, (sub_le_of_addrAdd_eq h).imp ?_ ?_⟩ <;> omega

/-- Operands that do not overlap: no byte of the second lies in the first. -/
theorem le_sub_of_overlaps_eq_false {a b : Addr} {n m : Nat} (h : overlaps a n b m = false) {x : Addr}
    (hx : (x - b).toNat < m) : n ≤ (x - a).toNat := by
  refine Nat.le_of_not_lt fun hlt => Bool.eq_false_iff.1 h ((overlapIsASharedAddress a b n m).2 ?_)
  refine ⟨_, hlt, _, hx, ?_⟩
  rw [← addrAdd_eq_ofNat, ← addrAdd_eq_ofNat, addrAdd_of_sub, addrAdd_of_sub]

/-! ### The next move of the script -/

section
variable {s : State} {moves : List Move}

/-- With no interrupt to take, a step is the next move of the script: MAIN's poll. -/
theorem step_poll (hr : irqReady s = false) (hs : s.script = .poll :: moves) :
    step s = .next (mainPoll { s with script := moves }) := by
  simp [step, powerFails, handlerRuns, hr, hs]

theorem step_stopComplete (hr : irqReady s = false) (hs : s.script = .stopComplete :: moves) :
    step s = .next (periphStopComplete { s with script := moves }) := by
  simp [step, powerFails, handlerRuns, hr, hs]

theorem step_store {a : Addr} {b : Byte} (hr : irqReady s = false) (hs : s.script = .store a b :: moves) :
    step s = .next (callerStore a b { s with script := moves }) := by
  simp [step, powerFails, handlerRuns, hr, hs]

theorem step_raise {status data : Byte} (hr : irqReady s = false) (hs : s.script = .raise status data :: moves) :
    step s = periphRaise status data { s with script := moves } := by
  simp [step, powerFails, handlerRuns, hr, hs]

/-- A command MAIN sends while it is not blocked runs as decoded (R100, R289). -/
theorem step_command_of_idle {bytes : List Byte} {i : Instr} (hr : irqReady s = false) (hp : s.twPhase = .idle)
    (hs : s.script = .command .main bytes :: moves) (hd : decodeCmd bytes = .ok i) :
    step s = mapNext leaveContext (exec i (enterContext .main { s with script := moves })) := by
  simp [step, powerFails, handlerRuns, hr, hs, hd, sentBy, hp]

/-- With the interrupt enabled and pending the handler runs, unless a reset or a command of IRQ comes first (R284). -/
theorem step_handler (hr : irqReady s = true) (hpc : ∀ moves, s.script ≠ .powerCycle :: moves)
    (hirq : ∀ bytes moves, s.script ≠ .command .irq bytes :: moves) :
    step s = mapNext leaveContext (exec (decodeEvt s.twStatus) (enterContext .irq s)) := by
  simp [step, powerFails_eq_false hpc, handlerRuns_eq hirq, hr]

end

/-- Settles O12: the store is one write of `BUF`. -/
theorem callerWritesItsMemory : Obligations.CallerWritesItsMemory := by
  intro s a b moves hm hr hs
  exact ⟨_, step_store hr hs, rfl, readByte_writeByte_same _ a b hm,
    fun _ hx => readByte_writeByte_other { s with script := moves } b hx⟩

end Sys2Proof.Machine
end

section
/-! SUPPORT. The three 256-bit block commands as commands on `BUF` (spec/46_aes_block.md R243, R244, R245), O49. -/

namespace Sys2Proof.Machine

/-- The forward steps from key block `j` give the key blocks after it, with their constants (R220, R227). -/
theorem steps256_keyBlock256 (n j : Nat) (key : Key256) :
    steps256 n (keyBlock256 j key) (rconAt j) = (keyBlock256 (j + n) key, rconAt (j + n)) := by
  induction n generalizing j with
  | zero => rfl
  | succ n ih =>
    rw [steps256, ← Nat.add_assoc, Nat.add_right_comm]
    exact ih (j + 1)

/-- R245: the derived key is key block 7. -/
theorem derive256_fst (key : Key256) : (derive256 key).1 = keyBlock256 7 key := by
  have h : steps256 7 key 0x01 = (keyBlock256 (0 + 7) key, rconAt (0 + 7)) := steps256_keyBlock256 7 0 key
  rw [derive256, h]

/-- The end of a 256-bit block operation: the result is stored, and beside it only the working registers change
(R46). -/
theorem finish256_spec (w : Work256) (round : BitVec 4) (p : Addr) (s : State) (hm : Memory.wf s.buf = true) :
    Stored s (finish256 w round p s) p w.st ∧
      { finish256 w round p s with
        buf := s.buf, st := s.st, rk := s.rk, rcon := s.rcon, round := s.round } = respond .done s := by
  refine ⟨stored_respond _ _ _ rfl hm (by decide), ?_⟩
  unfold finish256 respond writeBytes
  cases s.context <;> rfl

/-- `AES256.DERIVE` where it is not refused: key block 7 is stored, and beside it only the working registers of the
key change (R245). -/
theorem derive256_spec {k p : Addr} {s : State} (hk : deriveOverlap k p 32 = false) (hm : Memory.wf s.buf = true) :
    ∃ t, exec (.aes256Derive k p) s = .next t ∧
      Stored s t p (keyBlock256 7 (readBytes s k 32)) ∧
      { t with buf := s.buf, rk := s.rk, rcon := s.rcon, round := s.round } = respond .done s := by
  refine ⟨_, if_neg (by simp [hk]), ?_, ?_⟩
  · rw [← derive256_fst]
    exact stored_respond _ _ _ rfl hm (by decide)
  · unfold respond writeBytes
    cases s.context <;> rfl

/-- Settles O49: the operands decide whether a command is refused; where it is not, its end says what it stores. -/
theorem blockCommands256 : Obligations.BlockCommands256 := by
  intro s k p hm
  refine ⟨fun hov => ⟨?_, ?_⟩, fun hk => derive256_spec ?_ hm, fun hov => ⟨if_pos hov, if_pos hov⟩, fun hne hov => ?_⟩
  · exact ⟨_, if_neg (by simp [hov]), finish256_spec _ 7 p s hm⟩
  · exact ⟨_, if_neg (by simp [hov]), finish256_spec _ 1 p s hm⟩
  · rcases hk with rfl | hov
    · simp [deriveOverlap]
    · simp [deriveOverlap, hov]
  · exact if_pos (by simp [deriveOverlap, hov, hne])

end Sys2Proof.Machine
end

section
/-! SUPPORT. The loop of `AES128.CTR` (spec/47_aes_ctr.md R263), as what it leaves in each register and each byte of
`BUF`, O57. -/

namespace Sys2Proof.Machine

/-! ### What each pass of the loop leaves -/

/-- R200: an element of the state after a round key was added. -/
theorem byteAt_addRoundKey (st k : Block) {i : Nat} (hi : i < 16) :
    byteAt (addRoundKey st k) i = byteAt st i ^^^ byteAt k i := by
  rw [byteAt, dif_pos hi, addRoundKey, Vector.getElem_ofFn]

/-- The loop never writes the schedule (R263). -/
theorem ctrBlocks_sched (k : Nat) (d : Addr) (s : State) : (ctrBlocks k d s).sched = s.sched := by
  induction k generalizing d s with
  | zero => rfl
  | succ k ih => exact ih _ _

/-- The loop advances the counter once a block (R263, R264). -/
theorem ctrBlocks_ctr (k : Nat) (d : Addr) (s : State) : (ctrBlocks k d s).ctr = counterAfter k s.ctr := by
  induction k generalizing d s with
  | zero => rfl
  | succ k ih => exact ih _ _

theorem wf_ctrBlocks (k : Nat) (d : Addr) {s : State} (hm : Memory.wf s.buf = true) :
    Memory.wf (ctrBlocks k d s).buf = true := by
  induction k generalizing d s with
  | zero => exact hm
  | succ k ih => exact ih _ (wf_writeBytes _ _ _ hm)

/-- Beside `BUF` the loop changes working registers only (R248). -/
theorem withWorkingOf_ctrBlocks (k : Nat) (d : Addr) (s u : State) :
    withWorkingOf s (ctrBlocks k d u) = withWorkingOf s u := by
  induction k generalizing d u with
  | zero => rfl
  | succ k ih => exact (ih _ _).trans rfl

/-! ### What reads in `BUF` after the loop -/

theorem wf_ctrBlock {s : State} (d : Addr) (hm : Memory.wf s.buf = true) : Memory.wf (ctrBlock s d).buf = true :=
  wf_writeBytes _ _ _ hm

/-- What the loop xors into the byte at distance `e` above the data address: that byte of the keystream, whose block
`i` is the encryption of the counter plus `i` (R263). -/
def keystreamByte (s : State) (e : Nat) : Byte := byteAt (encSched s.sched (counterAfter (e / 16) s.ctr)) (e % 16)

/-- One pass xors the first keystream block into its sixteen bytes and leaves every other byte alone. -/
theorem readByte_ctrBlock {s : State} (hm : Memory.wf s.buf = true) (d x : Addr) :
    readByte (ctrBlock s d) x =
      if (x - d).toNat < 16 then readByte s x ^^^ keystreamByte s (x - d).toNat else readByte s x := by
  rw [ctrBlock, readByte_writeBytes]
  · split
    · next hx =>
      rw [byteAt_addRoundKey _ _ hx, byteAt_readBytes _ _ hx, addrAdd_of_sub, keystreamByte, Nat.div_eq_of_lt hx,
        Nat.mod_eq_of_lt hx]
      rfl
    · rfl
  · exact hm
  · decide

/-- The keystream after one pass is the rest of the keystream. -/
theorem keystreamByte_ctrBlock (s : State) (d : Addr) (e : Nat) :
    keystreamByte (ctrBlock s d) e = keystreamByte s (e + 16) := by
  rw [keystreamByte, keystreamByte, Nat.add_div_right e (by decide), Nat.add_mod_right]
  rfl

/-- R89: distances are modulo 2^`PTR_W`, so a base raised by `i` is nearer by `i`, or lies past the byte. -/
theorem sub_addrAdd_toNat (x d : Addr) {i : Nat} (hi : i ≤ 2 ^ 16) :
    (x - addrAdd d i).toNat = (2 ^ 16 - i + (x - d).toNat) % 2 ^ 16 := by
  have hsub : x - addrAdd d i = (x - d) - BitVec.ofNat 16 i := by simp [addrAdd, BitVec.sub_sub]
  rw [hsub, BitVec.toNat_sub, BitVec.toNat_ofNat]
  change (2 ^ 16 - i % 2 ^ 16 + (x - d).toNat) % 2 ^ 16 = _
  omega

/-- The loop xors the keystream into the bytes of its blocks and leaves every other byte alone (R263). -/
theorem readByte_ctrBlocks {k : Nat} {s : State} (hm : Memory.wf s.buf = true) (hk : 16 * k ≤ 2 ^ 16) (d x : Addr) :
    readByte (ctrBlocks k d s) x =
      if (x - d).toNat < 16 * k then readByte s x ^^^ keystreamByte s (x - d).toNat else readByte s x := by
  induction k generalizing d s with
  | zero => rfl
  | succ k ih =>
    have he : (x - d).toNat < 2 ^ 16 := (x - d).isLt
    rw [ctrBlocks, ih (wf_ctrBlock d hm) (by omega), readByte_ctrBlock hm, keystreamByte_ctrBlock,
      sub_addrAdd_toNat x d (by decide)]
    by_cases hx : (x - d).toNat < 16
    · rw [if_pos hx, if_neg (by omega), if_pos (by omega)]
    · have hdist : (2 ^ 16 - 16 + (x - d).toNat) % 2 ^ 16 + 16 = (x - d).toNat := by omega
      rw [if_neg hx, hdist]
      exact if_congr (by omega) rfl rfl

/-! ### The command -/

/-- The registers and the memory when the loop of `AES128.CTR` is done (R263). -/
theorem ctrRun_ctr (sp cp : Addr) (n : Count) (dp : Addr) (s : State) :
    (ctrRun sp cp n dp s).ctr = counterAfter n.toNat (readBytes s cp 16) :=
  ctrBlocks_ctr _ _ _

theorem readByte_ctrRun {sp cp : Addr} {n : Count} {dp : Addr} {s : State} (hm : Memory.wf s.buf = true)
    (hn : 16 * n.toNat ≤ 2 ^ 16) (x : Addr) :
    readByte (ctrRun sp cp n dp s) x =
      if (x - dp).toNat < 16 * n.toNat then
        readByte s x ^^^
          byteAt (encSched (readBytes s sp 176) (counterAfter ((x - dp).toNat / 16) (readBytes s cp 16)))
            ((x - dp).toNat % 16)
      else readByte s x := by
  rw [ctrRun, readByte_ctrBlocks]
  · rfl
  · exact hm
  · exact hn

/-- Operands of `AES128.CTR` that do not overlap: the data fit the address space beside the counter, and no byte of
the data lies in the counter (R88). -/
theorem ctr_operands_apart {sp cp : Addr} {n : Count} {dp : Addr} (h : ctrOverlap sp cp n dp = false) :
    16 * n.toNat ≤ 2 ^ 16 ∧ ∀ x : Addr, (x - dp).toNat < 16 * n.toNat → 16 ≤ (x - cp).toNat := by
  simp only [ctrOverlap, Bool.or_eq_false_iff] at h
  obtain ⟨-, hcd⟩ := h
  refine ⟨Nat.le_of_not_lt fun hn => ?_, fun x hx => le_sub_of_overlaps_eq_false hcd hx⟩
  have hin : (cp - dp).toNat < 16 * n.toNat := (cp - dp).isLt.trans hn
  have := le_sub_of_overlaps_eq_false hcd hin
  simp at this

/-- `AES128.CTR` where it is not refused: the loop, and then the counter written back (R263). -/
theorem aes128Ctr_eq {sp cp : Addr} {n : Count} {dp : Addr} {s : State} (h : ctrOverlap sp cp n dp = false) :
    exec (.aes128Ctr sp cp n dp) s =
      .next (respond .done (writeBytes (ctrRun sp cp n dp s) cp (ctrRun sp cp n dp s).ctr)) :=
  if_neg (by simp [h])

/-- What `AES128.CTR` leaves in `BUF`: the counter's bytes, and beside them what the loop left. -/
theorem stored_aes128Ctr {sp cp : Addr} {n : Count} {dp : Addr} {s : State} (hm : Memory.wf s.buf = true) :
    Stored (ctrRun sp cp n dp s) (respond .done (writeBytes (ctrRun sp cp n dp s) cp (ctrRun sp cp n dp s).ctr)) cp
      (counterAfter n.toNat (readBytes s cp 16)) := by
  rw [← ctrRun_ctr sp cp n dp]
  exact stored_respond _ _ _ rfl (wf_ctrBlocks _ _ hm) (by decide)

/-- Settles O57: the loop's bytes and the counter written back lie apart, so that each reads as it was left. -/
theorem counterModeRule : Obligations.CounterModeRule := by
  intro s sp cp n dp hm
  refine ⟨fun hov => ?_, fun hov => if_pos hov⟩
  obtain ⟨hfit, hapart⟩ := ctr_operands_apart hov
  obtain ⟨hctr, hrest⟩ := stored_aes128Ctr (sp := sp) (cp := cp) (n := n) (dp := dp) hm
  refine ⟨_, aes128Ctr_eq hov, ?_, hctr, ?_, ?_⟩
  · intro i hi j hj
    have hdist : (addrAdd dp (16 * i + j) - dp).toNat = 16 * i + j := by
      rw [addrAdd_sub_toNat, Nat.mod_eq_of_lt (by omega)]
    have hin : (addrAdd dp (16 * i + j) - dp).toNat < 16 * n.toNat := by omega
    rw [hrest _ (hapart _ hin), readByte_ctrRun hm hfit, if_pos hin, hdist, Nat.mul_add_div (by decide),
      Nat.div_eq_of_lt hj, Nat.add_zero, Nat.mul_add_mod, Nat.mod_eq_of_lt hj]
  · intro a hdata hcount
    rw [hrest a hcount, readByte_ctrRun hm hfit, if_neg (Nat.not_lt.2 hdata)]
  · rw [withWorkingOf_respond]
    exact congrArg (respond .done) (withWorkingOf_ctrBlocks _ _ s _)

end Sys2Proof.Machine
end

section
/-! SUPPORT. Runs through a transaction (spec/40_twi_commands.md R131, spec/41_twi_events.md R150 to R163): a command
and its start, an event and its handling in two steps, the STOP and the return. -/

namespace Sys2Proof.Machine

/-! ### Runs -/

section
variable {M : Host.Core} {s t u : M.State} {j k : Nat}

/-- A run that goes on begins with a step that does. -/
theorem run_succ_eq_next : M.run (k + 1) s = .next u ↔ ∃ t, M.step s = .next t ∧ M.run k t = .next u := by
  rw [Host.Core.run]
  cases M.step s with
  | next t => simp
  | fault r => simp
  | refused r => simp

theorem run_cons (h : M.step s = .next t) (h' : M.run k t = .next u) : M.run (k + 1) s = .next u :=
  run_succ_eq_next.2 ⟨t, h, h'⟩

theorem run_one (h : M.step s = .next t) : M.run 1 s = .next t :=
  run_cons h rfl

/-- A run after a run. -/
theorem run_add (h : M.run j s = .next t) (h' : M.run k t = .next u) : M.run (j + k) s = .next u := by
  induction j generalizing s with
  | zero =>
    obtain rfl : s = t := Host.Outcome.next.inj h
    rwa [Nat.zero_add]
  | succ j ih =>
    obtain ⟨r, hr, hrun⟩ := run_succ_eq_next.1 h
    rw [Nat.add_right_comm]
    exact run_cons hr (ih hrun)

end

/-! ### The moves of a transaction -/

/-- The move is no reset and no command of IRQ: a pending event is handled before it (log entries 3, 16, 17). -/
def waitsForHandler : Move → Bool
  | .powerCycle => false
  | .command .irq _ => false
  | _ => true

@[simp] theorem waitsForHandler_poll : waitsForHandler .poll = true := rfl
@[simp] theorem waitsForHandler_stopComplete : waitsForHandler .stopComplete = true := rfl
@[simp] theorem waitsForHandler_raise (status data : Byte) : waitsForHandler (.raise status data) = true := rfl

/-- A transaction in flight with no event pending, and with moves to come that leave the handler to run at once. -/
structure BetweenEvents (s : State) : Prop where
  inv : Inv s
  flying : inFlight s = true
  noEvent : ctrlIntSet s.twCtrl = false
  undisturbed : ∀ m ∈ s.script, waitsForHandler m = true

/-- What the handler finds when PERIPH has raised an event: the new status and data byte, the request, and context
IRQ (R284, R291). -/
def delivered (status data : Byte) (moves : List Move) (s : State) : State :=
  { s with
    twStatus := status, twData := data, twCtrl := setBit s.twCtrl Config.ctrlInt, script := moves, context := .irq }

/-- In flight, with no event pending, PERIPH can raise one (R291). -/
theorem periphRaise_of_inFlight {s : State} {status data : Byte} {moves : List Move} (hf : inFlight s = true)
    (hint : ctrlIntSet s.twCtrl = false) (hc : s.context = .main) :
    periphRaise status data { s with script := moves } = .next (leaveContext (delivered status data moves s)) := by
  obtain ⟨hp, hr⟩ := (inFlight_iff s).1 hf
  simp [periphRaise, inFlight, hp, hr, hint, delivered, leaveContext, hc]

@[simp] theorem delivered_twRemaining (status data : Byte) (moves : List Move) (s : State) :
    (delivered status data moves s).twRemaining = s.twRemaining := rfl

/-- Without a pending event there is no interrupt to take. -/
theorem irqReady_of_int_clear {s : State} (h : ctrlIntSet s.twCtrl = false) : irqReady s = false := by
  simp [irqReady, h]

/-- With no reset and no command of IRQ next, the enabled and pending interrupt is taken. -/
theorem step_handler_of_undisturbed {s : State} (hr : irqReady s = true)
    (hw : ∀ m ∈ s.script, waitsForHandler m = true) :
    step s = mapNext leaveContext (exec (decodeEvt s.twStatus) (enterContext .irq s)) := by
  refine step_handler hr (fun moves h => ?_) (fun bytes moves h => ?_)
  · exact absurd (hw .powerCycle (by simp [h])) (by decide)
  · exact absurd (hw (.command .irq bytes) (by simp [h])) Bool.false_ne_true

section
variable {s u : State} {status data : Byte} {moves : List Move} {i : Instr}

/-- An event is raised and handled in two steps; what it leaves meets the invariant and has no event pending. -/
theorem run_event (hs : BetweenEvents s) (hscript : s.script = .raise status data :: moves)
    (hi : decodeEvt status = i) (hu : exec i (delivered status data moves s) = .next u) :
    Sys2Proof.core.run 2 s = .next (leaveContext u) ∧ Inv (leaveContext u) ∧ ctrlIntSet u.twCtrl = false := by
  obtain ⟨hinv, hf, hint, hw⟩ := hs
  obtain ⟨hphase, -⟩ := (inFlight_iff s).1 hf
  obtain ⟨hset, hen, hie, -⟩ := kept_setInt s.twCtrl
  obtain ⟨hens, hies⟩ := hinv.enabled (by simp [hphase])
  have hraise : step s = .next (leaveContext (delivered status data moves s)) := by
    rw [step_raise (irqReady_of_int_clear hint) hscript]
    exact periphRaise_of_inFlight hf hint hinv.between
  have hinv' := everyStepKeepsTheInvariant _ _ hinv hraise
  have hready : irqReady (leaveContext (delivered status data moves s)) = true := by
    simp [irqReady, delivered, hset, hen, hie, hens, hies]
  have hhandle : step (leaveContext (delivered status data moves s)) = .next (leaveContext u) := by
    rw [step_handler_of_undisturbed hready fun m hm => hw m (hscript ▸ List.mem_cons_of_mem _ hm)]
    exact congrArg (mapNext leaveContext) (hi ▸ hu)
  refine ⟨run_add (run_one hraise) (run_one hhandle), everyStepKeepsTheInvariant _ _ hinv' hhandle, ?_⟩
  obtain ⟨a, ha, hc, -⟩ := event_ctrl (hi ▸ isEvent_decodeEvt status) hu
  rw [hc, int_ctrlAfter ha]

/-- Where the event does not end the transaction, the next one finds it as this one did. -/
theorem run_event_in_flight (hs : BetweenEvents s) (hscript : s.script = .raise status data :: moves)
    (hi : decodeEvt status = i) (hu : exec i (delivered status data moves s) = .next u) (hf : inFlight u = true) :
    Sys2Proof.core.run 2 s = .next (leaveContext u) ∧ BetweenEvents (leaveContext u) := by
  obtain ⟨hrun, hinv, hint⟩ := run_event hs hscript hi hu
  obtain ⟨-, hmoves⟩ : _ ∧ u.script = moves := exec_keeps_context_script hu
  refine ⟨hrun, hinv, hf, hint, fun m hm => hs.undisturbed m ?_⟩
  rw [hscript]
  exact List.mem_cons_of_mem _ (hmoves ▸ hm)

end

/-! ### What each event moves -/

/-- From `s` to `t` the transaction has moved `n` bytes on: the cursor is up and the count down by `n` (R23, R24), the
memory is `m`, and `moves` are still to come. -/
structure Moved (s : State) (n : Nat) (m : Memory) (moves : List Move) (t : State) : Prop where
  memory : t.buf = m
  source : t.twSrc = s.twSrc
  cursor : t.twCursor = addrAdd s.twCursor n
  count : t.twRemaining.toNat + n = s.twRemaining.toNat
  script : t.script = moves

/-- A transaction that has ended with success, its STOP not yet complete (R163). -/
structure StopRequested (s : State) : Prop where
  phase : s.twPhase = .waitResult
  result : s.twResult = .success
  noEvent : ctrlIntSet s.twCtrl = false

theorem Moved.trans {s t u : State} {n k : Nat} {m m' : Memory} {moves moves' : List Move}
    (h : Moved s n m moves t) (h' : Moved t k m' moves' u) : Moved s (n + k) m' moves' u where
  memory := h'.memory
  source := h'.source.trans h.source
  cursor := by rw [h'.cursor, h.cursor, addrAdd_addrAdd]
  count := by have := h.count; have := h'.count; omega
  script := h'.script

/-- The status bytes of the two scripts (R108). -/
theorem decodeEvt_values :
    decodeEvt 0x08 = .evtStart 0 ∧ decodeEvt 0x18 = .evtMtSlaAck 0 ∧ decodeEvt 0x28 = .evtMtDataAck 0 ∧
      decodeEvt 0x40 = .evtMrSlaAck 0 ∧ decodeEvt 0x50 = .evtMrDataAck 0 ∧ decodeEvt 0x58 = .evtMrDataNack 0 := by
  decide

section
variable {s : State} {status data : Byte} {moves : List Move}

/-- A delivered event of a transaction in flight is admitted (R150). -/
theorem admitted_delivered (hs : BetweenEvents s) (o : Outcome) : admitted (delivered status data moves s) o = o :=
  if_pos hs.flying

/-- A delivered receive status stores the byte and goes on, while bytes remain (R155, R157). -/
theorem receive_delivered (hs : BetweenEvents s) (hn : s.twRemaining ≠ 0) (f : State → State) :
    admitted (delivered status data moves s) (receive (delivered status data moves s) f) =
      .next (f (storeReceived (delivered status data moves s))) :=
  (admitted_delivered hs _).trans (receive_of_ne_zero (s := delivered status data moves s) hn f)

/-- `START`: the address byte is handed over (R151). -/
theorem run_start (hs : BetweenEvents s) (hscript : s.script = .raise 0x08 data :: moves) :
    ∃ t : State, Sys2Proof.core.run 2 s = .next t ∧ BetweenEvents t ∧ Moved s 0 s.buf moves t ∧ t.twData = s.twAddr := by
  obtain ⟨hi, -⟩ := decodeEvt_values
  obtain ⟨hrun, ht⟩ := run_event_in_flight hs hscript hi (admitted_delivered hs _) hs.flying
  exact ⟨_, hrun, ht, ⟨rfl, rfl, (addrAdd_zero _).symm, rfl, rfl⟩, rfl⟩

/-- `MR_SLA_ACK`: nothing moves yet (R156). -/
theorem run_readAddressAck (hs : BetweenEvents s) (hscript : s.script = .raise 0x40 data :: moves) :
    ∃ t : State, Sys2Proof.core.run 2 s = .next t ∧ BetweenEvents t ∧ Moved s 0 s.buf moves t := by
  obtain ⟨-, -, -, hi, -⟩ := decodeEvt_values
  obtain ⟨hrun, ht⟩ := run_event_in_flight hs hscript hi (admitted_delivered hs _) hs.flying
  exact ⟨_, hrun, ht, ⟨rfl, rfl, (addrAdd_zero _).symm, rfl, rfl⟩⟩

/-- R23: a byte moved and the bytes left are the bytes that were left before. -/
theorem toNat_sub_one_add {n : Len} (hn : n ≠ 0) : (n - 1).toNat + 1 = n.toNat := by
  have hpos : n.toNat ≠ 0 := fun h => hn (BitVec.eq_of_toNat_eq h)
  rw [toNat_sub_one hn]
  omega

/-- `MR_DATA_ACK`: the received byte is stored at the cursor (R155). -/
theorem run_dataAck (hs : BetweenEvents s) (hscript : s.script = .raise 0x50 data :: moves) (hn : s.twRemaining ≠ 0) :
    ∃ t : State, Sys2Proof.core.run 2 s = .next t ∧ BetweenEvents t ∧
      Moved s 1 (Memory.write s.buf s.twCursor.toNat data) moves t := by
  obtain ⟨-, -, -, -, hi, -⟩ := decodeEvt_values
  obtain ⟨hrun, ht⟩ := run_event_in_flight hs hscript hi
    (receive_delivered hs hn acknowledgeNext) hs.flying
  exact ⟨_, hrun, ht, ⟨rfl, rfl, rfl, toNat_sub_one_add hn, rfl⟩⟩

/-- `MR_DATA_NACK`: the received byte is stored at the cursor, and the read ends (R157). -/
theorem run_lastByte (hs : BetweenEvents s) (hscript : s.script = .raise 0x58 data :: moves)
    (hn : s.twRemaining ≠ 0) :
    ∃ t : State, Sys2Proof.core.run 2 s = .next t ∧ StopRequested t ∧
      Moved s 1 (Memory.write s.buf s.twCursor.toNat data) moves t := by
  obtain ⟨-, -, -, -, -, hi⟩ := decodeEvt_values
  obtain ⟨hrun, -, hint⟩ := run_event hs hscript hi (receive_delivered hs hn stopSuccess)
  exact ⟨_, hrun, ⟨((inFlight_iff s).1 hs.flying).1, rfl, hint⟩, ⟨rfl, rfl, rfl, toNat_sub_one_add hn, rfl⟩⟩

/-- `MT_SLA_ACK` and `MT_DATA_ACK` are one rule (R153). -/
theorem exec_acknowledged (hs : BetweenEvents s) (hack : status = 0x18 ∨ status = 0x28) :
    exec (decodeEvt status) (delivered status data moves s) = .next (transmitNext (delivered status data moves s)) := by
  obtain ⟨-, hsla, hdata, -⟩ := decodeEvt_values
  rcases hack with rfl | rfl
  · rw [hsla]
    exact admitted_delivered hs _
  · rw [hdata]
    exact admitted_delivered hs _

/-- An acknowledge while bytes remain: the byte of `BUF` at the cursor is handed over (R152, R153). -/
theorem run_acknowledged (hs : BetweenEvents s) (hscript : s.script = .raise status data :: moves)
    (hack : status = 0x18 ∨ status = 0x28) (hsrc : s.twSrc = false) (hn : s.twRemaining ≠ 0) :
    ∃ t : State, Sys2Proof.core.run 2 s = .next t ∧ BetweenEvents t ∧ Moved s 1 s.buf moves t ∧
      t.twData = readByte s s.twCursor := by
  have hu := exec_acknowledged (data := data) (moves := moves) hs hack
  rw [transmitNext_eq, delivered_twRemaining, if_neg hn] at hu
  obtain ⟨hrun, ht⟩ := run_event_in_flight hs hscript rfl hu hs.flying
  exact ⟨_, hrun, ht, ⟨rfl, rfl, rfl, toNat_sub_one_add hn, rfl⟩, if_neg (by simp [delivered, hsrc])⟩

/-- An acknowledge when none remains: the write ends (R152, R153). -/
theorem run_acknowledged_end (hs : BetweenEvents s) (hscript : s.script = .raise status data :: moves)
    (hack : status = 0x18 ∨ status = 0x28) (hz : s.twRemaining = 0) :
    ∃ t : State, Sys2Proof.core.run 2 s = .next t ∧ StopRequested t ∧ Moved s 0 s.buf moves t := by
  have hu := exec_acknowledged (data := data) (moves := moves) hs hack
  rw [transmitNext_eq, delivered_twRemaining, if_pos hz] at hu
  obtain ⟨hrun, -, hint⟩ := run_event hs hscript rfl hu
  exact ⟨_, hrun, ⟨((inFlight_iff s).1 hs.flying).1, rfl, hint⟩, ⟨rfl, rfl, (addrAdd_zero _).symm, rfl, rfl⟩⟩

end

/-! ### The command, the STOP and the return -/

/-- Parts (a) to (d) of a transaction from `BUF` are done: the address byte, the count and the buffer are recorded, and
a START is requested (R131). -/
def started (addr : Byte) (len : Len) (ptr : Addr) (moves : List Move) (s : State) : State :=
  { s with
    twAddr := addr, twRemaining := len, twCursor := ptr, twSrc := false, twResult := .pending, twCtrl := 0x25
    twPhase := .waitResult, respMain := none, script := moves }

theorem enterContext_main_of_main {s : State} (h : s.context = .main) : enterContext .main s = s := by
  rw [enterContext, ← h]

theorem leaveContext_of_main {s : State} (h : s.context = .main) : leaveContext s = s :=
  enterContext_main_of_main h

/-- The command of a transaction takes one step, after which the first event can come. -/
theorem run_command {s : State} {bytes : List Byte} {moves : List Move} {i : Instr} {addr : Byte} {len : Len}
    {ptr : Addr} (hs : Inv s) (hp : s.twPhase = .idle) (hscript : s.script = .command .main bytes :: moves)
    (hd : decodeCmd bytes = .ok i) (hw : ∀ m ∈ moves, waitsForHandler m = true)
    (hi : exec i { s with script := moves } = .next (started addr len ptr moves s)) :
    Sys2Proof.core.run 1 s = .next (started addr len ptr moves s) ∧ BetweenEvents (started addr len ptr moves s) := by
  have hint : ctrlIntSet s.twCtrl = false := hs.int_of_not_inFlight (by simp [inFlight_iff, hp])
  have hstep : step s = .next (started addr len ptr moves s) := by
    rw [step_command_of_idle (irqReady_of_int_clear hint) hp hscript hd, enterContext_main_of_main, hi, mapNext_next,
      leaveContext_of_main]
    · exact hs.between
    · exact hs.between
  exact ⟨run_one hstep, everyStepKeepsTheInvariant _ _ hs hstep, rfl, (by decide : ctrlIntSet 0x25 = false), hw⟩

/-- Part (e) ends when MAIN polls a result that is no longer pending (R131). -/
theorem step_poll_of_result {s : State} {moves : List Move} (hs : StopRequested s)
    (hscript : s.script = .poll :: moves) : step s = .next { s with script := moves, twPhase := .waitStop } := by
  obtain ⟨hp, hr, hint⟩ := hs
  rw [step_poll (irqReady_of_int_clear hint) hscript]
  simp [mainPoll, hp, hr]

/-- Part (f) ends when MAIN polls `STO` clear, and part (g) returns the result (R131). -/
theorem step_poll_of_stopped {s : State} {moves : List Move} (hp : s.twPhase = .waitStop)
    (hint : ctrlIntSet s.twCtrl = false) (hsto : ctrlStoSet s.twCtrl = false) (hscript : s.script = .poll :: moves) :
    step s = .next { s with script := moves, twPhase := .idle, respMain := some (.ret s.twResult) } := by
  rw [step_poll (irqReady_of_int_clear hint) hscript]
  simp [mainPoll, hp, hsto]

/-- Parts (e) to (g): MAIN sees the result, the STOP completes, and MAIN returns (R131, R293). -/
theorem run_return {s : State} (hs : StopRequested s) (hscript : s.script = [.poll, .stopComplete, .poll]) :
    Sys2Proof.core.run 3 s = .next { s with
      script := [], twPhase := .idle, respMain := some (.ret s.twResult)
      twCtrl := clearBit s.twCtrl Config.ctrlSto } := by
  obtain ⟨hsto, -, -, hint, -⟩ := kept_clearSto s.twCtrl
  have hresult := step_poll_of_result hs hscript
  have hstop := step_stopComplete (s := { s with script := [.stopComplete, .poll], twPhase := .waitStop })
    (irqReady_of_int_clear hs.noEvent) rfl
  have hreturn := step_poll_of_stopped
    (s := periphStopComplete { s with script := [.poll], twPhase := .waitStop }) rfl (hint.trans hs.noEvent) hsto rfl
  exact run_cons hresult (run_cons hstop (run_one hreturn))

end Sys2Proof.Machine
end

section
/-! SUPPORT. A scripted read and a scripted write from the command to the return (spec/40_twi_commands.md R132, R134,
spec/20_memory.md R76), O30 and O31. -/

namespace Sys2Proof.Machine

/-! ### The commands -/

/-- The port reads a `TWI.WRITE` back from its bytes (R103). -/
theorem decodeCmd_encode_twiWrite (a : BitVec 7) (n : Len) (p : Addr) :
    decodeCmd (encode (.twiWrite a n p)).2 = .ok (.twiWrite a n p) := by
  simp [encode, decodeCmd, decodeCmdIn, opUnit, decodeTwi, operandsAddrLenPtr, operandsPtr, operandsEnd]

/-- The port reads a `TWI.READ` back from its bytes (R103). -/
theorem decodeCmd_encode_twiRead (a : BitVec 7) (n : Len) (p : Addr) :
    decodeCmd (encode (.twiRead a n p)).2 = .ok (.twiRead a n p) := by
  simp [encode, decodeCmd, decodeCmdIn, opUnit, decodeTwi, operandsAddrLenPtr, operandsPtr, operandsEnd]

/-- A count of no bytes is the count 0. -/
theorem len_eq_zero {n : Len} (h : n.toNat = 0) : n = 0 := BitVec.eq_of_toNat_eq h

section
variable {s : State} {bytes : List Byte} {data : Byte} {moves : List Move} {i : Instr} {addr : Byte} {len : Len}
  {ptr : Addr}

/-- The command and `START`: the address byte is handed over, and nothing else has moved. -/
theorem run_command_start (hs : Inv s) (hp : s.twPhase = .idle)
    (hscript : s.script = .command .main bytes :: .raise 0x08 data :: moves) (hd : decodeCmd bytes = .ok i)
    (hw : ∀ m ∈ moves, waitsForHandler m = true)
    (hi : ∀ u : State, u.context = .main → u.twPhase = .idle → exec i u = .next (started addr len ptr u.script u)) :
    ∃ t : State, Sys2Proof.core.run 3 s = .next t ∧ BetweenEvents t ∧
      Moved (started addr len ptr moves s) 0 s.buf moves t ∧ t.twData = addr := by
  obtain ⟨hrun, hb⟩ := run_command hs hp hscript hd (List.forall_mem_cons.2 ⟨rfl, hw⟩) (hi _ hs.between hp)
  obtain ⟨t, hrun', hb', hmoved, hdata⟩ := run_start hb rfl
  exact ⟨t, run_add hrun hrun', hb', ⟨hmoved.memory, hmoved.source, hmoved.cursor, hmoved.count, hmoved.script⟩, hdata⟩

end

/-! ### A read -/

/-- Writing a run of bytes and then the byte above it is writing the longer run. -/
theorem Memory.writeList_concat (m : Memory) (a : Addr) (bs : List Byte) (b : Byte) :
    Memory.writeList m a (bs ++ [b]) = Memory.write (Memory.writeList m a bs) (addrAdd a bs.length).toNat b := by
  induction bs generalizing m a with
  | nil => simp [Memory.writeList, addrAdd_zero]
  | cons c bs ih =>
    rw [List.cons_append, Memory.writeList, ih, addrAdd_addrAdd, Nat.add_comm]
    rfl

/-- `MR_DATA_ACK` after `MR_DATA_ACK`: the received bytes are stored in order, ascending from the cursor (R76, R155). -/
theorem run_dataAcks (ds : List Byte) {s : State} {moves : List Move} (hs : BetweenEvents s)
    (hscript : s.script = ds.map (Move.raise 0x50) ++ moves) (hn : ds.length ≤ s.twRemaining.toNat) :
    ∃ t : State, Sys2Proof.core.run (2 * ds.length) s = .next t ∧ BetweenEvents t ∧
      Moved s ds.length (Memory.writeList s.buf s.twCursor ds) moves t := by
  induction ds generalizing s with
  | nil => exact ⟨s, rfl, hs, ⟨rfl, rfl, (addrAdd_zero _).symm, rfl, hscript⟩⟩
  | cons d ds ih =>
    rw [List.length_cons] at hn
    have hn0 : s.twRemaining ≠ 0 := fun h => by simp [h] at hn
    obtain ⟨t, hrun, hb, hmoved⟩ := run_dataAck hs hscript hn0
    obtain ⟨u, hrun', hb', hmoved'⟩ := ih hb hmoved.script (by have := hmoved.count; omega)
    rw [hmoved.memory, hmoved.cursor] at hmoved'
    rw [List.length_cons, Nat.mul_succ, Nat.add_comm, Nat.add_comm ds.length]
    exact ⟨u, run_add hrun hrun', hb', hmoved.trans hmoved'⟩

/-- What reads in `BUF` after a run of bytes was written from `ptr` upward. -/
theorem readByte_of_writeList {s t : State} {ptr : Addr} {bs : List Byte} (hm : Memory.wf s.buf = true)
    (hn : bs.length ≤ 2 ^ 16) (hbuf : t.buf = Memory.writeList s.buf ptr bs) :
    (∀ k, k < bs.length → readByte t (addrAdd ptr k) = bs.getD k 0) ∧
      ∀ a : Addr, bs.length ≤ (a - ptr).toNat → readByte t a = readByte s a := by
  refine ⟨fun k hk => ?_, fun a ha => ?_⟩
  · rw [readByte, hbuf, Memory.read_writeList hm hn, addrAdd_sub_toNat, Nat.mod_eq_of_lt (by omega), if_pos hk]
  · rw [readByte, hbuf, Memory.read_writeList hm hn, if_neg (by omega)]
    rfl

/-- A read of one byte or more up to its STOP request: the command and `START`, `MR_SLA_ACK`, the bytes but the last,
and the last byte. -/
theorem run_read {s : State} {addr7 : BitVec 7} {ptr : Addr} {ds : List Byte} {last d0 d1 : Byte} (hs : Inv s)
    (hp : s.twPhase = .idle) (hlen : ds.length < 255)
    (hscript : s.script =
      .command .main (encode (.twiRead addr7 (BitVec.ofNat 8 (ds.length + 1)) ptr)).2 ::
      .raise 0x08 d0 :: .raise 0x40 d1 :: (ds.map (Move.raise 0x50) ++
      [.raise 0x58 last, .poll, .stopComplete, .poll])) :
    ∃ t : State, Sys2Proof.core.run (2 * ds.length + 7) s = .next t ∧ StopRequested t ∧
      t.script = [.poll, .stopComplete, .poll] ∧ t.twRemaining = 0 ∧ t.twCursor = addrAdd ptr (ds.length + 1) ∧
      t.buf = Memory.writeList s.buf ptr (ds ++ [last]) := by
  have hlen8 : (BitVec.ofNat 8 (ds.length + 1)).toNat = ds.length + 1 := by
    rw [BitVec.toNat_ofNat, Nat.mod_eq_of_lt (by omega)]
  have hne : BitVec.ofNat 8 (ds.length + 1) ≠ 0 := fun h => by simp [h] at hlen8
  obtain ⟨t₁, hrun₁, hb₁, hmoved₁, -⟩ := run_command_start hs hp hscript (decodeCmd_encode_twiRead _ _ _)
    (by simp [or_imp, forall_and]) (fun u hc hu => (transactionsStart u addr7 _ ptr 0 hc hu).2.2 hne)
  obtain ⟨t₂, hrun₂, hb₂, hmoved₂⟩ := run_readAddressAck hb₁ hmoved₁.script
  have hstart := hmoved₁.trans hmoved₂
  have hcount₂ : t₂.twRemaining.toNat = ds.length + 1 := hstart.count.trans hlen8
  obtain ⟨t₃, hrun₃, hb₃, hmoved₃⟩ := run_dataAcks ds hb₂ hstart.script (by omega)
  have hcount₃ := hmoved₃.count
  obtain ⟨t₄, hrun₄, hstop, hmoved₄⟩ := run_lastByte hb₃ hmoved₃.script (fun h => by simp [h] at hcount₃; omega)
  have hcount₄ := hmoved₄.count
  refine ⟨t₄, ?_, hstop, hmoved₄.script, len_eq_zero (by omega), ?_, ?_⟩
  · rw [← run_add hrun₁ (run_add hrun₂ (run_add hrun₃ hrun₄))]
    congr 1
    omega
  · rw [hmoved₄.cursor, hmoved₃.cursor, hstart.cursor, addrAdd_addrAdd, addrAdd_addrAdd, Nat.zero_add]
    rfl
  · rw [Memory.writeList_concat, hmoved₄.memory, hmoved₃.memory, hmoved₃.cursor, hstart.cursor, hmoved₂.memory,
      hmoved₁.memory, addrAdd_zero]
    rfl

/-- Settles O30: the run up to the STOP request, and then the return. -/
theorem readStoresExactlyTheBytes : Obligations.ReadStoresExactlyTheBytes := by
  intro s addr7 ptr ds last d0 d1 hs hp hlen hscript
  obtain ⟨t, hrun, hstop, hmoves, hremaining, hcursor, hbuf⟩ := run_read hs hp hlen hscript
  have hlength : (ds ++ [last]).length = ds.length + 1 := by simp
  obtain ⟨hstored, hkept⟩ := readByte_of_writeList hs.memory (by omega) hbuf
  refine ⟨_, run_add (k := 3) hrun (run_return hstop hmoves), rfl, rfl, ?_, hremaining, hcursor, fun k hk => ?_,
    fun a ha => ?_⟩
  · exact congrArg (fun r => some (Response.ret r)) hstop.result
  · exact hstored k (by omega)
  · exact hkept a (by omega)

/-! ### A write -/

/-- PERIPH reports that the target acknowledged the address or a byte (R152, R153). -/
def Acknowledges (m : Move) : Prop := ∃ status data, (status = 0x18 ∨ status = 0x28) ∧ m = .raise status data

/-- Acknowledge after acknowledge: the bytes from the cursor are handed over in order, `BUF` being kept (R76, R153). -/
theorem run_acknowledges (acks : List Move) {s : State} {moves : List Move} (hs : BetweenEvents s)
    (hacks : ∀ m ∈ acks, Acknowledges m) (hscript : s.script = acks ++ moves) (hsrc : s.twSrc = false)
    (hn : acks.length ≤ s.twRemaining.toNat) :
    ∃ t : State, Sys2Proof.core.run (2 * acks.length) s = .next t ∧ BetweenEvents t ∧
      Moved s acks.length s.buf moves t := by
  induction acks generalizing s with
  | nil => exact ⟨s, rfl, hs, ⟨rfl, rfl, (addrAdd_zero _).symm, rfl, hscript⟩⟩
  | cons m acks ih =>
    obtain ⟨⟨status, data, hack, rfl⟩, hrest⟩ := List.forall_mem_cons.1 hacks
    rw [List.length_cons] at hn
    have hn0 : s.twRemaining ≠ 0 := fun h => by simp [h] at hn
    obtain ⟨t, hrun, hb, hmoved, -⟩ := run_acknowledged hs hscript hack hsrc hn0
    obtain ⟨u, hrun', hb', hmoved'⟩ := ih hb hrest hmoved.script (hmoved.source.trans hsrc)
      (by have := hmoved.count; omega)
    rw [hmoved.memory] at hmoved'
    rw [List.length_cons, Nat.mul_succ, Nat.add_comm, Nat.add_comm acks.length]
    exact ⟨u, run_add hrun hrun', hb', hmoved.trans hmoved'⟩

/-- After `k` acknowledges the first `k` bytes are handed over, and the next acknowledge is to come. -/
theorem run_acknowledges_take {acks : List Move} {s : State} {moves : List Move} {k : Nat} (hs : BetweenEvents s)
    (hacks : ∀ m ∈ acks, Acknowledges m) (hscript : s.script = acks ++ moves) (hsrc : s.twSrc = false)
    (hk : k < acks.length) (hn : k ≤ s.twRemaining.toNat) :
    ∃ (t : State) (status data : Byte), Sys2Proof.core.run (2 * k) s = .next t ∧ BetweenEvents t ∧
      (status = 0x18 ∨ status = 0x28) ∧ Moved s k s.buf (.raise status data :: (acks.drop (k + 1) ++ moves)) t := by
  obtain ⟨status, data, hack, hnext⟩ := hacks _ (List.getElem_mem hk)
  have htake : (acks.take k).length = k := List.length_take_of_le (Nat.le_of_lt hk)
  have hsplit : s.script = acks.take k ++ .raise status data :: (acks.drop (k + 1) ++ moves) := by
    rw [hscript, ← hnext, ← List.cons_append, ← List.drop_eq_getElem_cons hk, ← List.append_assoc,
      List.take_append_drop]
  obtain ⟨t, hrun, hb, hmoved⟩ := run_acknowledges (acks.take k) hs (fun m hm => hacks m (List.mem_of_mem_take hm))
    hsplit hsrc (htake.trans_le hn)
  rw [htake] at hrun hmoved
  exact ⟨t, status, data, hrun, hb, hack, hmoved⟩

/-- The moves that acknowledge the address and then every byte. -/
theorem acknowledges_of_mem {ds : List Byte} {d1 : Byte} :
    ∀ m ∈ Move.raise 0x18 d1 :: ds.map (Move.raise 0x28), Acknowledges m :=
  List.forall_mem_cons.2 ⟨⟨_, _, .inl rfl, rfl⟩, List.forall_mem_map.2 fun _ _ => ⟨_, _, .inr rfl, rfl⟩⟩

/-- Settles O31: after `k` acknowledges the next one hands over byte `k`, or ends the write where none remains. -/
theorem writeHandsOverTheBytesInOrder : Obligations.WriteHandsOverTheBytesInOrder := by
  intro s addr7 ptr ds d0 d1 hs hp hlen hscript
  have hlen8 : (BitVec.ofNat 8 ds.length).toNat = ds.length := by
    rw [BitVec.toNat_ofNat, Nat.mod_eq_of_lt hlen]
  obtain ⟨t₁, hrun₁, hb₁, hstart, hdata⟩ := run_command_start hs hp hscript (decodeCmd_encode_twiWrite _ _ _)
    (by simp [or_imp, forall_and]) (fun u hc hu => (transactionsStart u addr7 _ ptr 0 hc hu).1)
  have hcount₁ : t₁.twRemaining.toNat = ds.length := hstart.count.trans hlen8
  have hcursor₁ : t₁.twCursor = ptr := hstart.cursor.trans (addrAdd_zero ptr)
  have hto (k : Nat) (hk : k ≤ ds.length) := run_acknowledges_take (k := k)
    (acks := .raise 0x18 d1 :: ds.map (Move.raise 0x28)) hb₁ acknowledges_of_mem hstart.script hstart.source
    (by simp; omega) (by omega)
  refine ⟨⟨t₁, hrun₁, hdata⟩, fun k hk => ?_, ?_⟩
  · obtain ⟨t, status, data, hrun, hb, hack, hmoved⟩ := hto k (by omega)
    have hcount := hmoved.count
    obtain ⟨u, hrun', -, -, hbyte⟩ := run_acknowledged hb hmoved.script hack (hmoved.source.trans hstart.source)
      (fun h => by simp [h] at hcount; omega)
    have hall := run_add hrun₁ (run_add hrun hrun')
    rw [Nat.add_comm] at hall
    exact ⟨u, hall, by rw [hbyte, hmoved.cursor, hcursor₁, readByte_congr (hmoved.memory.trans hstart.memory)]⟩
  · obtain ⟨t, status, data, hrun, hb, hack, hmoved⟩ := hto ds.length (le_refl _)
    have hcount := hmoved.count
    rw [List.drop_eq_nil_of_le (by simp)] at hmoved
    have hz : t.twRemaining = 0 := len_eq_zero (by omega)
    obtain ⟨u, hrun', hstop, hend⟩ := run_acknowledged_end hb hmoved.script hack hz
    have hall := run_add hrun₁ (run_add hrun (run_add hrun' (run_return hstop hend.script)))
    rw [Nat.add_comm] at hall
    refine ⟨_, hall, rfl, rfl, ?_, ?_, hend.memory.trans (hmoved.memory.trans hstart.memory)⟩
    · exact congrArg (fun r => some (Response.ret r)) hstop.result
    · exact len_eq_zero (hend.count.trans (by rw [hz]; rfl))

end Sys2Proof.Machine
end

section
/-! SUPPORT. The decoder and the encoder of the two formats undo each other (spec/30_encoding.md R100 to R113), O1, O2
and O3, and what the status byte of an event selects, O5. -/

namespace Sys2Proof

/-! ### Operand fields read back -/

section
variable (op : Byte)

@[simp] theorem operandsEnd_nil (i : Instr) : operandsEnd op i [] = .ok i := rfl

@[simp] theorem operandsByte_fieldBytes (i : Byte → Instr) (b : Byte) :
    operandsByte op i (fieldBytes b) = .ok (i b) := by
  simp [operandsByte]

@[simp] theorem operandsByteByte_fieldBytes (i : Byte → Byte → Instr) (a b : Byte) :
    operandsByteByte op i (fieldBytes a ++ fieldBytes b) = .ok (i a b) := by
  simp [operandsByteByte]

@[simp] theorem operandsPtr_fieldBytes (i : Addr → Instr) (p : Addr) :
    operandsPtr op i (fieldBytes p) = .ok (i p) := by
  simp [operandsPtr]

@[simp] theorem operandsPtrPtr_fieldBytes (i : Addr → Addr → Instr) (p q : Addr) :
    operandsPtrPtr op i (fieldBytes p ++ fieldBytes q) = .ok (i p q) := by
  simp [operandsPtrPtr]

@[simp] theorem operandsPtrByte_fieldBytes (i : Addr → Byte → Instr) (p : Addr) (b : Byte) :
    operandsPtrByte op i (fieldBytes p ++ fieldBytes b) = .ok (i p b) := by
  simp [operandsPtrByte]

@[simp] theorem operandsCtr_fieldBytes (i : Addr → Addr → Count → Addr → Instr) (s c : Addr) (n : Count) (d : Addr) :
    operandsCtr op i (fieldBytes s ++ (fieldBytes c ++ (fieldBytes n ++ fieldBytes d))) = .ok (i s c n d) := by
  simp [operandsCtr]

@[simp] theorem operandsAddrByte_fieldBytes (i : BitVec 7 → Byte → Instr) (a : BitVec 7) (b : Byte) :
    operandsAddrByte op i (fieldBytes a ++ fieldBytes b) = .ok (i a b) := by
  simp [operandsAddrByte]

@[simp] theorem operandsAddrLenPtr_fieldBytes (i : BitVec 7 → Len → Addr → Instr) (a : BitVec 7) (n : Len)
    (p : Addr) :
    operandsAddrLenPtr op i (fieldBytes a ++ (fieldBytes n ++ fieldBytes p)) = .ok (i a n p) := by
  simp [operandsAddrLenPtr]

end

/-! ### Events -/

/-- The request of a recognized status name (R108). -/
def eventOf : StatusName → Byte → Instr
  | .start => .evtStart
  | .mtSlaAck => .evtMtSlaAck
  | .mtDataAck => .evtMtDataAck
  | .mrDataAck => .evtMrDataAck
  | .mrSlaAck => .evtMrSlaAck
  | .mrDataNack => .evtMrDataNack
  | .mtDataNack => .evtMtDataNack
  | .mtSlaNack => .evtMtSlaNack
  | .mrSlaNack => .evtMrSlaNack

section
variable {name : StatusName} {b low : Byte}

theorem encode_eventOf (name : StatusName) (low : Byte) :
    encode (eventOf name low) = (.evt, [statusByte name low]) := by
  cases name <;> rfl

/-- R100: an event is one of the nine recognized ones, or `OTHER`. -/
theorem event_shape {i : Instr} (hi : (encode i).1 = .evt) :
    (∃ name low, i = eventOf name low) ∨ ∃ b, i = .evtOther b := by
  cases i
  case evtStart low => exact .inl ⟨.start, low, rfl⟩
  case evtMtSlaAck low => exact .inl ⟨.mtSlaAck, low, rfl⟩
  case evtMtDataAck low => exact .inl ⟨.mtDataAck, low, rfl⟩
  case evtMrDataAck low => exact .inl ⟨.mrDataAck, low, rfl⟩
  case evtMrSlaAck low => exact .inl ⟨.mrSlaAck, low, rfl⟩
  case evtMrDataNack low => exact .inl ⟨.mrDataNack, low, rfl⟩
  case evtMtDataNack low => exact .inl ⟨.mtDataNack, low, rfl⟩
  case evtMtSlaNack low => exact .inl ⟨.mtSlaNack, low, rfl⟩
  case evtMrSlaNack low => exact .inl ⟨.mrSlaNack, low, rfl⟩
  case evtOther b => exact .inr ⟨b, rfl⟩
  all_goals cases hi

theorem wellFormed_eventOf (name : StatusName) (low : Byte) : WellFormed (eventOf name low) = maskedOnly low := by
  cases name <;> rfl

theorem wellFormed_evtOther (b : Byte) : WellFormed (.evtOther b) = !recognized b := rfl

/-- R108: a status is recognized where its masked value is the code of one of the nine names. -/
theorem recognized_iff :
    recognized b = true ↔ ∃ name, b &&& Config.parameters.statusMask = Config.parameters.statusCode name := by
  rw [recognized, List.contains_iff_mem, statusCodes, List.mem_map]
  constructor
  · rintro ⟨name, -, h⟩
    exact ⟨name, h.symm⟩
  · rintro ⟨name, h⟩
    exact ⟨name, by cases name <;> simp, h.symm⟩

theorem masked_ne_statusCode (h : recognized b = false) (name : StatusName) :
    b &&& Config.parameters.statusMask ≠ Config.parameters.statusCode name := fun hc =>
  Bool.eq_false_iff.1 h (recognized_iff.2 ⟨name, hc⟩)

/-- R107: the masked status selects the name; the ignored bits are kept beside it. -/
theorem decodeEvt_of_code (h : b &&& Config.parameters.statusMask = Config.parameters.statusCode name) :
    decodeEvt b = eventOf name (ignoredBits b) := by
  simp only [decodeEvt, h]
  cases name <;> rfl

/-- R108: every other status is `OTHER`. -/
theorem decodeEvt_of_unrecognized (h : recognized b = false) : decodeEvt b = .evtOther b := by
  simp only [decodeEvt, masked_ne_statusCode h, if_false]

/-- A status byte is its masked value with the bits the mask removes. -/
theorem masked_or_ignoredBits (b : Byte) : b &&& Config.parameters.statusMask ||| ignoredBits b = b := by
  rw [ignoredBits, ← BitVec.and_or_distrib_left, BitVec.or_not_self, BitVec.and_allOnes]

theorem maskedOnly_ignoredBits (b : Byte) : maskedOnly (ignoredBits b) = true := by
  simp [maskedOnly, ignoredBits, BitVec.and_assoc]

/-- The mask removes no bit of a code (R108). -/
theorem statusCode_masked (name : StatusName) :
    Config.parameters.statusCode name &&& Config.parameters.statusMask = Config.parameters.statusCode name := by
  cases name <;> rfl

/-- What the mask leaves of a recognized event's status byte, and what it removes (R107). -/
theorem statusByte_masked (name : StatusName) (hl : maskedOnly low = true) :
    statusByte name low &&& Config.parameters.statusMask = Config.parameters.statusCode name ∧
      ignoredBits (statusByte name low) = low := by
  have hlow : low &&& Config.parameters.statusMask = 0 := of_decide_eq_true hl
  have hkept : ignoredBits low = low := by
    have hsplit := masked_or_ignoredBits low
    rwa [hlow, show (0 : Byte) = 0#8 from rfl, BitVec.zero_or] at hsplit
  have hcode : ignoredBits (Config.parameters.statusCode name) = 0 := by cases name <;> rfl
  constructor
  · rw [statusByte, BitVec.and_or_distrib_right, statusCode_masked, hlow]
    exact BitVec.or_zero
  · calc
      ignoredBits (statusByte name low) = ignoredBits (Config.parameters.statusCode name) ||| ignoredBits low :=
        BitVec.and_or_distrib_right
      _ = 0 ||| low := by rw [hcode, hkept]
      _ = low := BitVec.zero_or

/-- The status byte of a recognized event decodes to that event. -/
theorem decodeEvt_statusByte (name : StatusName) (hl : maskedOnly low = true) :
    decodeEvt (statusByte name low) = eventOf name low := by
  obtain ⟨hcode, hrest⟩ := statusByte_masked name hl
  rw [decodeEvt_of_code hcode, hrest]

/-- A status byte is the encoding of what it decodes to, a well-formed event (R107, R108). -/
theorem encode_decodeEvt (b : Byte) : encode (decodeEvt b) = (.evt, [b]) ∧ WellFormed (decodeEvt b) = true := by
  cases hr : recognized b with
  | false =>
    rw [decodeEvt_of_unrecognized hr, wellFormed_evtOther, hr]
    exact ⟨rfl, rfl⟩
  | true =>
    obtain ⟨name, hcode⟩ := recognized_iff.1 hr
    rw [decodeEvt_of_code hcode, encode_eventOf, wellFormed_eventOf, statusByte, ← hcode, masked_or_ignoredBits]
    exact ⟨rfl, maskedOnly_ignoredBits b⟩

/-- Settles O5: a status that is a code has that name's event, and every other status is `OTHER`. -/
theorem statusSelectsTheName : Obligations.StatusSelectsTheName := by
  intro b
  split_ifs
  · exact decodeEvt_of_code (name := .start) ‹_›
  · exact decodeEvt_of_code (name := .mtSlaAck) ‹_›
  · exact decodeEvt_of_code (name := .mtSlaNack) ‹_›
  · exact decodeEvt_of_code (name := .mtDataAck) ‹_›
  · exact decodeEvt_of_code (name := .mtDataNack) ‹_›
  · exact decodeEvt_of_code (name := .mrSlaAck) ‹_›
  · exact decodeEvt_of_code (name := .mrSlaNack) ‹_›
  · exact decodeEvt_of_code (name := .mrDataAck) ‹_›
  · exact decodeEvt_of_code (name := .mrDataNack) ‹_›
  · refine decodeEvt_of_unrecognized (Bool.eq_false_iff.2 fun hr => ?_)
    obtain ⟨name, hcode⟩ := recognized_iff.1 hr
    cases name <;> contradiction

end

/-! ### Commands -/

/-- R110: under the build flags `b`, a command that exists is read back from its bytes. -/
theorem decodeCmdIn_encode {b : Build} {i : Instr} (hi : (encode i).1 = .cmd) (h : existsIn b i = true) :
    decodeCmdIn b (encode i).2 = .ok i := by
  cases i
  case evtStart | evtMtSlaAck | evtMtDataAck | evtMrDataAck | evtMrSlaAck | evtMrDataNack | evtMtDataNack |
      evtMtSlaNack | evtMrSlaNack | evtOther =>
    cases hi
  case twiInit | twiWrite | twiWrite1 | twiRead =>
    simp [encode, decodeCmdIn, opUnit, decodeTwi]
  case gfMul2 | gfDiv2 | gfLog | gfAlog | gfInv | gfMul =>
    simp [encode, decodeCmdIn, opUnit, decodeGf]
  case aesSbox | aesIsbox | aesSubBytes | aesIsubBytes | aesShiftRows | aesIshiftRows | aesMixColumns |
      aesImixColumns | aesAddRoundKey =>
    simp [encode, decodeCmdIn, opUnit, decodeAes]
  case aes128Enc | aes128Dec | aes128Derive | aesKs128f | aesKs128i | aes256Enc | aes256Dec | aes256Derive |
      aesKs256f | aesKs256i | aes128Expand | aes128Ctr =>
    rw [existsIn] at h
    simp [encode, decodeCmdIn, opUnit, decodeAes, h]

/-- Settles O2: a command is read back field by field, an event by its masked status. -/
theorem decodeOfEncode : Obligations.DecodeOfEncode := by
  intro i h
  cases hf : (encode i).1 with
  | cmd => exact decodeCmdIn_encode hf (Bool.and_eq_true_iff.1 h).1
  | evt =>
    obtain ⟨name, low, rfl⟩ | ⟨b, rfl⟩ := event_shape hf
    · rw [wellFormed_eventOf] at h
      rw [encode_eventOf, decode, decodeEvt_statusByte name h]
    · rw [wellFormed_evtOther, Bool.not_eq_true'] at h
      rw [encode, decode, decodeEvt_of_unrecognized h]

/-! ### What the command decoder answers -/

/-- The decoder answers nothing but commands that exist under the build flags `b` and are encoded by `bytes`. -/
def Reads (b : Build) (bytes : List Byte) (r : Except DecodeError Instr) : Prop :=
  ∀ i, r = .ok i → encode i = (.cmd, bytes) ∧ existsIn b i = true

section
variable {b : Build} {op : Byte} {rest bytes : List Byte}

theorem reads_error (e : DecodeError) : Reads b bytes (.error e) := nofun

/-- A row of an opcode map, and the rows after it (R109, R110). -/
theorem reads_row {c : Prop} [Decidable c] {x y : Except DecodeError Instr} (hx : c → Reads b bytes x)
    (hy : Reads b bytes y) : Reads b bytes (if c then x else y) := by
  split
  · exact hx ‹c›
  · exact hy

theorem reads_operandsEnd {i : Instr} (h : encode i = (.cmd, [op]) ∧ existsIn b i = true) :
    Reads b (op :: rest) (operandsEnd op i rest) := by
  intro j hj
  obtain ⟨rfl, rfl⟩ := operandsEnd_eq_ok hj
  exact h

theorem reads_operandsByte {i : Byte → Instr}
    (h : ∀ v, encode (i v) = (.cmd, op :: fieldBytes v) ∧ existsIn b (i v) = true) :
    Reads b (op :: rest) (operandsByte op i rest) := by
  intro j hj
  obtain ⟨v, rfl, rfl⟩ := operandsByte_eq_ok hj
  exact h v

theorem reads_operandsByteByte {i : Byte → Byte → Instr}
    (h : ∀ v w, encode (i v w) = (.cmd, op :: (fieldBytes v ++ fieldBytes w)) ∧ existsIn b (i v w) = true) :
    Reads b (op :: rest) (operandsByteByte op i rest) := by
  intro j hj
  obtain ⟨v, w, rfl, rfl⟩ := operandsByteByte_eq_ok hj
  exact h v w

theorem reads_operandsPtr {i : Addr → Instr}
    (h : ∀ p, encode (i p) = (.cmd, op :: fieldBytes p) ∧ existsIn b (i p) = true) :
    Reads b (op :: rest) (operandsPtr op i rest) := by
  intro j hj
  obtain ⟨p, rfl, rfl⟩ := operandsPtr_eq_ok hj
  exact h p

theorem reads_operandsPtrPtr {i : Addr → Addr → Instr}
    (h : ∀ p q, encode (i p q) = (.cmd, op :: (fieldBytes p ++ fieldBytes q)) ∧ existsIn b (i p q) = true) :
    Reads b (op :: rest) (operandsPtrPtr op i rest) := by
  intro j hj
  obtain ⟨p, q, rfl, rfl⟩ := operandsPtrPtr_eq_ok hj
  exact h p q

theorem reads_operandsPtrByte {i : Addr → Byte → Instr}
    (h : ∀ p v, encode (i p v) = (.cmd, op :: (fieldBytes p ++ fieldBytes v)) ∧ existsIn b (i p v) = true) :
    Reads b (op :: rest) (operandsPtrByte op i rest) := by
  intro j hj
  obtain ⟨p, v, rfl, rfl⟩ := operandsPtrByte_eq_ok hj
  exact h p v

theorem reads_operandsAddrByte {i : BitVec 7 → Byte → Instr}
    (h : ∀ a v, encode (i a v) = (.cmd, op :: (fieldBytes a ++ fieldBytes v)) ∧ existsIn b (i a v) = true) :
    Reads b (op :: rest) (operandsAddrByte op i rest) := by
  intro j hj
  obtain ⟨a, v, rfl, rfl⟩ := operandsAddrByte_eq_ok hj
  exact h a v

theorem reads_operandsAddrLenPtr {i : BitVec 7 → Len → Addr → Instr}
    (h : ∀ a n p, encode (i a n p) = (.cmd, op :: (fieldBytes a ++ (fieldBytes n ++ fieldBytes p))) ∧
      existsIn b (i a n p) = true) :
    Reads b (op :: rest) (operandsAddrLenPtr op i rest) := by
  intro j hj
  obtain ⟨a, n, p, rfl, rfl⟩ := operandsAddrLenPtr_eq_ok hj
  exact h a n p

theorem reads_operandsCtr {i : Addr → Addr → Count → Addr → Instr}
    (h : ∀ s c n d,
      encode (i s c n d) = (.cmd, op :: (fieldBytes s ++ (fieldBytes c ++ (fieldBytes n ++ fieldBytes d)))) ∧
        existsIn b (i s c n d) = true) :
    Reads b (op :: rest) (operandsCtr op i rest) := by
  intro j hj
  obtain ⟨s, c, n, d, rfl, rfl⟩ := operandsCtr_eq_ok hj
  exact h s c n d

theorem reads_decodeTwi : Reads b (op :: rest) (decodeTwi op rest) := by
  rw [decodeTwi]
  refine reads_row ?twiInit <| reads_row ?twiWrite <| reads_row ?twiWrite1 <| reads_row ?twiRead <| reads_error _
  all_goals rintro rfl
  case twiInit => exact reads_operandsEnd ⟨rfl, rfl⟩
  case twiWrite1 => exact reads_operandsAddrByte fun _ _ => ⟨rfl, rfl⟩
  case twiWrite | twiRead => exact reads_operandsAddrLenPtr fun _ _ _ => ⟨rfl, rfl⟩

theorem reads_decodeAes : Reads b (op :: rest) (decodeAes b op rest) := by
  rw [decodeAes]
  refine reads_row ?aes128Enc <| reads_row ?aes128Dec <| reads_row ?aes128Derive <| reads_row ?aes256Enc <|
    reads_row ?aes256Dec <| reads_row ?aes256Derive <| reads_row ?aes128Expand <| reads_row ?aes128Ctr <|
    reads_row ?aesSbox <| reads_row ?aesIsbox <| reads_row ?aesSubBytes <| reads_row ?aesIsubBytes <|
    reads_row ?aesShiftRows <| reads_row ?aesIshiftRows <| reads_row ?aesMixColumns <| reads_row ?aesImixColumns <|
    reads_row ?aesAddRoundKey <| reads_row ?aesKs128f <| reads_row ?aesKs128i <| reads_row ?aesKs256f <|
    reads_row ?aesKs256i <| reads_error _
  case aes128Enc | aes128Dec | aes128Derive | aes256Enc | aes256Dec | aes256Derive | aes128Expand =>
    rintro ⟨rfl, hflag⟩
    exact reads_operandsPtrPtr fun _ _ => ⟨rfl, hflag⟩
  case aes128Ctr =>
    rintro ⟨rfl, hflag⟩
    exact reads_operandsCtr fun _ _ _ _ => ⟨rfl, hflag⟩
  case aesKs128f | aesKs128i | aesKs256f | aesKs256i =>
    rintro ⟨rfl, hflag⟩
    exact reads_operandsPtrByte fun _ _ => ⟨rfl, hflag⟩
  all_goals rintro rfl
  case aesSbox | aesIsbox => exact reads_operandsByte fun _ => ⟨rfl, rfl⟩
  case aesAddRoundKey => exact reads_operandsPtrPtr fun _ _ => ⟨rfl, rfl⟩
  all_goals exact reads_operandsPtr fun _ => ⟨rfl, rfl⟩

theorem reads_decodeGf : Reads b (op :: rest) (decodeGf op rest) := by
  rw [decodeGf]
  refine reads_row ?gfMul2 <| reads_row ?gfDiv2 <| reads_row ?gfLog <| reads_row ?gfAlog <| reads_row ?gfInv <|
    reads_row ?gfMul <| reads_error _
  all_goals rintro rfl
  case gfMul => exact reads_operandsByteByte fun _ _ => ⟨rfl, rfl⟩
  all_goals exact reads_operandsByte fun _ => ⟨rfl, rfl⟩

theorem reads_decodeCmdIn (b : Build) (bytes : List Byte) : Reads b bytes (decodeCmdIn b bytes) := by
  cases bytes with
  | nil => exact reads_error _
  | cons op rest =>
    rw [decodeCmdIn]
    split
    · exact reads_decodeTwi
    split
    · exact reads_decodeAes
    split
    · exact reads_decodeGf
    · exact reads_error _

end

/-- A command carries no status byte (R107). -/
theorem statusFits_of_command {i : Instr} (hi : (encode i).1 = .cmd) : statusFits i = true := by
  cases i
  case evtStart | evtMtSlaAck | evtMtDataAck | evtMrDataAck | evtMrSlaAck | evtMrDataNack | evtMtDataNack |
      evtMtSlaNack | evtMrSlaNack | evtOther =>
    cases hi
  all_goals rfl

/-- Settles O3: what the command decoder reads is the encoding of an existing command, and every status byte the
encoding of what it selects. -/
theorem encodeOfDecode : Obligations.EncodeOfDecode := by
  intro f bytes i h
  match f, bytes, h with
  | .cmd, bytes, h =>
    obtain ⟨henc, hex⟩ := reads_decodeCmdIn _ _ _ h
    exact ⟨henc, Bool.and_eq_true_iff.2 ⟨hex, statusFits_of_command (congrArg Prod.fst henc)⟩⟩
  | .evt, [b], h =>
    obtain rfl := Except.ok.inj h
    exact encode_decodeEvt b

/-- Settles O1: each word is the encoding of its request, which is well-formed. -/
theorem writtenOutWordsDecode : Obligations.WrittenOutWordsDecode :=
  ⟨decodeOfEncode .twiInit rfl,
    decodeOfEncode (.twiWrite 0x50 2 0x0100) rfl,
    decodeOfEncode (.twiWrite1 0x3C 0xAF) rfl,
    decodeOfEncode (.twiRead 0x68 1 0x0200) rfl,
    decodeOfEncode (.aes128Enc 0x0300 0x0320) rfl,
    decodeOfEncode (.aes256Derive 0x0400 0x0420) rfl,
    decodeOfEncode (.aes128Ctr 0x0500 0x05B0 2 0x0620) rfl,
    decodeOfEncode (.aesSbox 0x53) rfl,
    decodeOfEncode (.aesKs256i 0x1234 0x40) rfl,
    decodeOfEncode (.gfMul 0x57 0x83) rfl,
    decodeOfEncode (.evtStart 0) rfl,
    decodeOfEncode (.evtMtSlaAck 2) rfl,
    decodeOfEncode (.evtMrDataNack 0) rfl,
    decodeOfEncode (.evtOther 0x38) rfl⟩

end Sys2Proof
end

section
/-! SUPPORT. What a step does with a command (spec/60_exceptions.md R289), O6, with a reserved opcode, O4, and with an
event, O7; TWI commands of length 0, O20. -/

namespace Sys2Proof

/-- The opcode map of R109. -/
def opcodes : List Byte :=
  [0x00, 0x01, 0x02, 0x03, 0x40, 0x41, 0x42, 0x44, 0x45, 0x46, 0x48, 0x49, 0x50, 0x51, 0x52, 0x53,
    0x54, 0x55, 0x56, 0x57, 0x58, 0x59, 0x5A, 0x5B, 0x5C, 0x80, 0x81, 0x82, 0x83, 0x84, 0x85]

/-- R110: no row of the opcode map takes an opcode byte outside it. -/
theorem decodeCmdIn_of_not_opcode {op : Byte} (h : op ∉ opcodes) (b : Build) (rest : List Byte) :
    decodeCmdIn b (op :: rest) = .error (.reservedOpcode op) := by
  simp only [opcodes, List.mem_cons, List.not_mem_nil, or_false, not_or] at h
  simp only [decodeCmdIn, decodeTwi, decodeAes, decodeGf, h, false_and, if_false, ite_self]

/-- R110: without a key size, or without the fast path, its rows are reserved. -/
theorem decodeCmdIn_of_configured_out {b : Build} {op : Byte}
    (h : (b.keys128 = false ∧ op ∈ ([0x40, 0x41, 0x42, 0x59, 0x5A] : List Byte)) ∨
      (b.keys256 = false ∧ op ∈ ([0x44, 0x45, 0x46, 0x5B, 0x5C] : List Byte)) ∨
      (b.fastPath = false ∧ op ∈ ([0x48, 0x49] : List Byte))) (rest : List Byte) :
    decodeCmdIn b (op :: rest) = .error (.reservedOpcode op) := by
  simp only [List.mem_cons, List.not_mem_nil, or_false] at h
  obtain ⟨hflag, rfl | rfl | rfl | rfl | rfl⟩ | ⟨hflag, rfl | rfl | rfl | rfl | rfl⟩ | ⟨hflag, rfl | rfl⟩ := h
  all_goals simp [decodeCmdIn, opUnit, decodeAes, hflag]

end Sys2Proof

namespace Sys2Proof.Machine

section
variable {s : State} {c : Context} {bytes : List Byte} {moves : List Move}

theorem handlerRuns_of_irq_command (hs : s.script = .command .irq bytes :: moves) : handlerRuns s = false := by
  simp [handlerRuns, irqSends, hs]

/-- Where the handler does not run first, a step takes the command that is next (R100, R289). -/
theorem step_command {i : Instr} (hr : handlerRuns s = false) (hs : s.script = .command c bytes :: moves)
    (hd : decodeCmd bytes = .ok i) :
    step s = sentBy c i s (mapNext leaveContext (exec i (enterContext c { s with script := moves }))) := by
  simp [step, powerFails, hr, hs, hd]

/-- Where the bytes are no command, the port answers (R110). -/
theorem step_badRequest {e : DecodeError} (hr : handlerRuns s = false) (hs : s.script = .command c bytes :: moves)
    (hd : decodeCmd bytes = .error e) : step s = badRequest e := by
  simp [step, powerFails, hr, hs, hd]

end

/-- Settles O4: no row of the opcode map takes the byte, and the command port passes the decoder's refusal on. -/
theorem reservedOpcodesAreRefused : Obligations.ReservedOpcodesAreRefused := by
  refine ⟨fun b op rest h => ?_, fun s c op rest moves hr hs hop => ?_⟩
  · obtain hop | hout := h
    · exact decodeCmdIn_of_not_opcode hop b rest
    · exact decodeCmdIn_of_configured_out hout rest
  · exact step_badRequest (handlerRuns_of_not_ready hr) hs (decodeCmdIn_of_not_opcode hop _ rest)

/-- Settles O6: the handler does not run before the command, and `sentBy` says which context can send it. -/
theorem stepRunsTheCommand : Obligations.StepRunsTheCommand := by
  intro s c bytes moves i hs hd
  refine ⟨?_, ?_, ?_⟩
  · rintro (⟨rfl, hr, hsend⟩ | ⟨rfl, hr⟩)
    · rw [step_command (handlerRuns_of_not_ready hr) hs hd]
      exact if_pos hsend
    · rw [step_command (handlerRuns_of_irq_command hs) hs hd]
      exact if_pos hr
  · rintro rfl hr hp hi
    rw [step_command (handlerRuns_of_not_ready hr) hs hd]
    exact if_neg (by simp [hp, hi])
  · rintro rfl hr
    rw [step_command (handlerRuns_of_irq_command hs) hs hd]
    exact if_neg (by simp [hr])

/-- Settles O7: the three bits are the enabled and pending interrupt (R33, R284). -/
theorem stepRunsTheEvent : Obligations.StepRunsTheEvent := by
  intro s hint hen hie hpc hirq
  have hr : irqReady s = true := Bool.and_eq_true_iff.2 ⟨Bool.and_eq_true_iff.2 ⟨hint, hen⟩, hie⟩
  exact step_handler hr hpc hirq

/-- Settles O20: a write of length 0 starts with no byte remaining, where the address acknowledge ends it; a read of
length 0 is refused before the unit is asked. -/
theorem zeroLength : Obligations.ZeroLength := by
  intro s addr7 ptr low
  refine ⟨fun hc hp => ?_, rfl⟩
  obtain ⟨hwrite, -⟩ := transactionsStart s addr7 0 ptr 0 hc hp
  exact ⟨_, hwrite, rfl, _, (acknowledgedWriteSendsTheNextByte _ low _ (.inl rfl) rfl rfl).2 rfl, rfl, (by decide : ctrlStoSet 0x15 = true), rfl⟩

end Sys2Proof.Machine
end

section
/-! SUPPORT. MAIN's polls (spec/40_twi_commands.md R131, R135, R138), O8, and the refusals of the TWI commands (R136),
O19. -/

namespace Sys2Proof.Machine

/-! ### MAIN's polls -/

section
variable {s : State}

/-- An idle block does nothing (R310). -/
theorem mainPoll_of_idle (hp : s.twPhase = .idle) : mainPoll s = s := by
  simp [mainPoll, hp]

/-- Part (e) goes on while the result is pending (R131, R135). -/
theorem mainPoll_of_pending (hp : s.twPhase = .waitResult) (hr : s.twResult = .pending) : mainPoll s = s := by
  simp [mainPoll, hp, hr]

/-- Part (e) ends at a result that is no longer pending (R131). -/
theorem mainPoll_of_result (hp : s.twPhase = .waitResult) (hr : s.twResult ≠ .pending) :
    mainPoll s = { s with twPhase := .waitStop } := by
  simp [mainPoll, hp, hr]

/-- Part (f) goes on while `STO` reads 1 (R131, R135). -/
theorem mainPoll_of_stopping (hp : s.twPhase = .waitStop) (hsto : ctrlStoSet s.twCtrl = true) : mainPoll s = s := by
  simp [mainPoll, hp, hsto]

/-- Part (f) ends where `STO` reads 0, and part (g) returns the result (R131, R138). -/
theorem mainPoll_of_stopped (hp : s.twPhase = .waitStop) (hsto : ctrlStoSet s.twCtrl = false) :
    mainPoll s = { s with twPhase := .idle, respMain := some (.ret s.twResult) } := by
  simp [mainPoll, hp, hsto]

/-- With no interrupt to take and no move left, MAIN polls (R310; log entry 6). -/
theorem step_of_no_move (hr : irqReady s = false) (hs : s.script = []) : step s = .next (mainPoll s) := by
  simp [step, powerFails, handlerRuns, hr, hs]

end

/-- R25, R138: the returned byte is zero exactly for `SUCCESS`. -/
theorem ret_byte_eq_zero_iff (r : TwResult) : (Response.ret r).byte = some 0 ↔ r = .success :=
  Option.some_inj.trans (code_eq_zero_iff r)

/-- Settles O8: either way the step is MAIN's poll of `u`, which differs from `s` in its script at most. -/
theorem mainPollsUntilTheResultAndTheStop : Obligations.MainPollsUntilTheResultAndTheStop := by
  intro s u hr hu
  obtain ⟨hstep, moves, rfl⟩ : step s = .next (mainPoll u) ∧ ∃ moves, u = { s with script := moves } := by
    obtain ⟨hs, rfl⟩ | ⟨moves, hs, rfl⟩ := hu
    · exact ⟨step_of_no_move hr hs, _, rfl⟩
    · exact ⟨step_poll hr hs, moves, rfl⟩
  rw [hstep]
  refine ⟨fun hp => ?_, fun hp hres => ?_, fun hp hres => ?_, fun hp hsto => ?_, fun hp hsto =>
    ⟨?_, ret_byte_eq_zero_iff _⟩⟩
  · exact congrArg _ (mainPoll_of_idle hp)
  · exact congrArg _ (mainPoll_of_pending hp hres)
  · exact congrArg _ (mainPoll_of_result hp hres)
  · exact congrArg _ (mainPoll_of_stopping hp hsto)
  · exact congrArg _ (mainPoll_of_stopped hp hsto)

/-! ### The refusals of the TWI commands -/

/-- Settles O19: the unit accepts no command, and each of the four asks it first, `TWI.READ` once its length is known
not to be 0 (log entry 13). -/
theorem busyUnitRefusesCommands : Obligations.BusyUnitRefusesCommands := by
  intro s addr7 len ptr byte hbusy
  have hrefuses : twiAccepts s = false := twiAccepts_eq_false (not_and_or.2 hbusy)
  refine ⟨?init, ?write, ?write1, fun hlen => ?read⟩
  case init => simp [exec, execTwiInit, hrefuses]
  case write => simp [exec, execTwiWrite, hrefuses]
  case write1 => simp [exec, execTwiWrite1, hrefuses]
  case read =>
    rw [exec, execTwiRead, if_neg hlen]
    simp [hrefuses]

end Sys2Proof.Machine
end

section
/-! SUPPORT. The events as a family (spec/41_twi_events.md): when they are admitted (R150), O21, how they end a
transaction (R163, R281), O29, and the rule of those that end it with `FAILURE` (R158, R159, R160), O28. -/

namespace Sys2Proof.Machine

variable {i : Instr} {s t : State}

/-! ### Admission -/

theorem admitted_of_not_inFlight (h : ¬ inFlight s = true) (o : Outcome) :
    admitted s o = .refused .eventOutsideTransaction :=
  if_neg h

/-- The rule of a receive status answers R150's refusal at no count. -/
theorem receive_ne_eventOutsideTransaction (s : State) (f : State → State) :
    receive s f ≠ .refused .eventOutsideTransaction := by
  unfold receive
  split <;> simp

/-- R150 stands before the rule of every event, and no rule answers its refusal. -/
theorem exec_event_eq_admitted (hi : isEvent i = true) :
    ∃ o, exec i s = admitted s o ∧ o ≠ .refused .eventOutsideTransaction := by
  obtain ⟨name, low, rfl⟩ | ⟨b, rfl⟩ := event_shape (of_decide_eq_true hi)
  · cases name
    case mrDataAck | mrDataNack => exact ⟨_, rfl, receive_ne_eventOutsideTransaction _ _⟩
    all_goals exact ⟨_, rfl, nofun⟩
  · exact ⟨_, rfl, nofun⟩

/-- Settles O21: in flight an event answers its own rule, elsewhere R150's refusal. -/
theorem eventsAreAdmittedInFlightOnly : Obligations.EventsAreAdmittedInFlightOnly := by
  intro s i hi
  obtain ⟨o, ho, hrule⟩ := exec_event_eq_admitted (s := s) hi
  rw [ho, ← inFlight_iff]
  refine ⟨fun h hf => hrule ?_, fun hf => admitted_of_not_inFlight hf o⟩
  obtain ⟨hp, hr⟩ := (inFlight_iff s).1 hf
  rwa [admitted_of_inFlight hp hr] at h

/-! ### The end of a transaction -/

/-- The result an event leaves when it finds `count` bytes remaining (R163, R281). -/
def resultAfter (count : Len) : Instr → TwResult
  | .evtMtSlaAck _ | .evtMtDataAck _ => if count = 0 then .success else .pending
  | .evtMtDataNack _ | .evtMrDataNack _ => .success
  | .evtMtSlaNack _ | .evtMrSlaNack _ | .evtOther _ => .failure
  | _ => .pending

theorem resultAfter_eq_success_iff (count : Len) (i : Instr) :
    resultAfter count i = .success ↔
      (∃ low, (i = .evtMtSlaAck low ∨ i = .evtMtDataAck low) ∧ count = 0) ∨
      (∃ low, i = .evtMtDataNack low ∨ i = .evtMrDataNack low) := by
  cases i <;> simp [resultAfter]

theorem resultAfter_eq_failure_iff (count : Len) (i : Instr) :
    resultAfter count i = .failure ↔
      (∃ low, i = .evtMtSlaNack low ∨ i = .evtMrSlaNack low) ∨ (∃ b, i = .evtOther b) := by
  cases i
  case evtMtSlaAck | evtMtDataAck =>
    simp only [resultAfter]
    split <;> simp
  all_goals simp [resultAfter]

theorem transmitNext_twResult (hr : s.twResult = .pending) :
    (transmitNext s).twResult = if s.twRemaining = 0 then .success else .pending := by
  rw [transmitNext_eq]
  split
  · rfl
  · exact hr

/-- The handler's rule writes the result of its event, or leaves it pending (R162). -/
theorem event_twResult (hi : isEvent i = true) (h : exec i s = .next t) :
    t.twResult = resultAfter s.twRemaining i := by
  obtain ⟨hf, hrule⟩ := event_cases hi h
  obtain ⟨-, hr⟩ := (inFlight_iff s).1 hf
  obtain ⟨⟨l, rfl⟩, rfl⟩ | ⟨⟨l, rfl | rfl⟩, rfl⟩ | ⟨⟨l, rfl⟩, rfl⟩ | ⟨⟨l, rfl⟩, -, rfl⟩ | ⟨⟨l, rfl⟩, -, rfl⟩ |
    ⟨⟨l, rfl⟩, rfl⟩ | ⟨⟨l, rfl | rfl⟩ | ⟨b, rfl⟩, rfl⟩ := hrule
  case inr.inl.inl | inr.inl.inr => exact transmitNext_twResult hr
  case inl | inr.inr.inl | inr.inr.inr.inl => exact hr
  all_goals rfl

/-- An event leaves the result pending, or ends the transaction in one of two ways (R163). -/
theorem event_end (hi : isEvent i = true) (h : exec i s = .next t) :
    t.twResult = .pending ∨ (∃ u, t = stopSuccess u) ∨ t = endFailure s := by
  obtain ⟨hf, hrule⟩ := event_cases hi h
  obtain ⟨-, hr⟩ := (inFlight_iff s).1 hf
  obtain ⟨-, rfl⟩ | ⟨-, rfl⟩ | ⟨-, rfl⟩ | ⟨-, -, rfl⟩ | ⟨-, -, rfl⟩ | ⟨-, rfl⟩ | ⟨-, rfl⟩ := hrule
  · exact .inl hr
  · unfold transmitNext
    split
    · exact .inr (.inl ⟨_, rfl⟩)
    · exact .inl hr
  · exact .inl hr
  · exact .inl hr
  · exact .inr (.inl ⟨_, rfl⟩)
  · exact .inr (.inl ⟨_, rfl⟩)
  · exact .inr (.inr rfl)

theorem stopSuccess_sto (s : State) : ctrlStoSet (stopSuccess s).twCtrl = true :=
  sto_ctrlAfter (a := .stop) (by decide) s.twCtrl

theorem endFailure_sto (s : State) : ctrlStoSet (endFailure s).twCtrl = ctrlStoSet s.twCtrl := by
  obtain ⟨-, -, hsto, -⟩ := kept_ctrlAfter_none s.twCtrl
  exact hsto

/-- Success comes with a STOP request (R163). -/
theorem sto_of_success (hi : isEvent i = true) (h : exec i s = .next t) (ht : t.twResult = .success) :
    ctrlStoSet t.twCtrl = true := by
  obtain hp | ⟨u, rfl⟩ | rfl := event_end hi h
  · exact nomatch hp.symm.trans ht
  · exact stopSuccess_sto u
  · exact nomatch ht

/-- Failure requests none (R158, R160, R163). -/
theorem sto_of_failure (hi : isEvent i = true) (h : exec i s = .next t) (ht : t.twResult = .failure) :
    ctrlStoSet t.twCtrl = ctrlStoSet s.twCtrl := by
  obtain hp | ⟨u, rfl⟩ | rfl := event_end hi h
  · exact nomatch hp.symm.trans ht
  · exact nomatch ht
  · exact endFailure_sto s

/-- Settles O29: the result says which event ran and what became of `STO`, and O21 refuses every event after it. -/
theorem terminalEvents : Obligations.TerminalEvents := by
  intro s t i hi h
  have hres := event_twResult hi h
  refine ⟨?_, ?_, sto_of_success hi h, sto_of_failure hi h, fun hend j hj =>
    (eventsAreAdmittedInFlightOnly t j hj).2 fun ⟨_, hr⟩ => hend hr⟩
  · rw [hres]
    exact resultAfter_eq_success_iff _ _
  · rw [hres]
    exact resultAfter_eq_failure_iff _ _

/-- Settles O28: the three events are one rule, `ACT_NONE` and `FAILURE`. -/
theorem addressNackAndOtherMarkFailure : Obligations.AddressNackAndOtherMarkFailure := by
  intro s low status hp hr
  rw [← endFailure_eq]
  have hrule := admitted_of_inFlight hp hr (.next (endFailure s))
  exact ⟨hrule, hrule, hrule⟩

end Sys2Proof.Machine
end

section
/-! SUPPORT. The field GF(2^8) of the GF unit (spec/42_gf_primitives.md R170 to R175): doubling and the product, O32,
O33, O37. -/

namespace Sys2Proof.Machine

variable (a b c x y : Byte)

/-! ### Doubling and halving -/

/-- R170: what the high bit decides is one xor. -/
theorem mul2_eq_xor : mul2 x = (x <<< 1) ^^^ (if x.getLsbD 7 = true then 0x1B else 0) := by
  unfold mul2
  split <;> simp

/-- Doubling is additive, the reduction included. -/
theorem mul2_xor : mul2 (x ^^^ y) = mul2 x ^^^ mul2 y := by
  have hreduction : ∀ p q : Bool, (if (p ^^ q) = true then (0x1B : Byte) else 0) =
      (if p = true then 0x1B else 0) ^^^ (if q = true then 0x1B else 0) := by
    decide
  simp only [mul2_eq_xor, BitVec.shiftLeft_xor_distrib, BitVec.getLsbD_xor, hreduction]
  ac_rfl

@[simp] theorem div2_mul2 : div2 (mul2 x) = x := by
  revert x; decide +kernel

@[simp] theorem mul2_div2 : mul2 (div2 x) = x := by
  revert x; decide +kernel

/-- Settles O32: halving is the inverse that makes doubling a bijection. -/
theorem mul2Rule : Obligations.Mul2Rule := by
  refine ⟨fun _ => rfl, fun _ _ => rfl, ?_, by decide⟩
  exact Function.bijective_iff_has_inverse.2 ⟨div2, div2_mul2, mul2_div2⟩

/-- Settles O33: the closed form undoes doubling from either side. -/
theorem div2Rule : Obligations.Div2Rule :=
  ⟨fun _ => rfl, fun _ _ => rfl, fun x => ⟨div2_mul2 x, mul2_div2 x⟩, by decide⟩

/-! ### The product -/

section
variable {f : Byte → Byte} (hxor : ∀ x y, f (x ^^^ y) = f x ^^^ f y) (hmul2 : ∀ x, f (mul2 x) = mul2 (f x))

include hxor in
theorem map_zero_of_map_xor : f 0 = 0 := by
  simpa using hxor 0 0

include hmul2 in
theorem map_mul2Pow (i : Nat) : f (mul2Pow i a) = mul2Pow i (f a) := by
  induction i with
  | zero => rfl
  | succ i ih => rw [mul2Pow, hmul2, ih, mul2Pow]

include hxor hmul2 in
theorem map_mulTerm (i : Nat) : f (mulTerm a b i) = mulTerm (f a) b i := by
  unfold mulTerm
  split
  · exact map_mul2Pow a hmul2 i
  · exact map_zero_of_map_xor hxor

include hxor hmul2 in
/-- The product is a sum of doublings of its first factor, so whatever respects sums and doublings passes to that
factor. The laws of R175 are this law at different maps. -/
theorem map_gfMul : f (mul a b) = mul (f a) b := by
  simp only [mul, hxor, map_mulTerm a b hxor hmul2]

end

theorem mul2Pow_xor (i : Nat) : mul2Pow i (x ^^^ y) = mul2Pow i x ^^^ mul2Pow i y := by
  induction i with
  | zero => rfl
  | succ i ih => simp only [mul2Pow, ih, mul2_xor]

theorem mulTerm_xor (i : Nat) : mulTerm (a ^^^ b) c i = mulTerm a c i ^^^ mulTerm b c i := by
  unfold mulTerm
  split
  · exact mul2Pow_xor a b i
  · rfl

theorem xor_gfMul : mul (a ^^^ b) c = mul a c ^^^ mul b c := by
  simp only [mul, mulTerm_xor]
  ac_rfl

theorem mul2_gfMul : mul2 (mul a b) = mul (mul2 a) b :=
  map_gfMul a b mul2_xor fun _ => rfl

/-- The doublings of 0x01 below 0x100 are the eight bits. -/
theorem one_gfMul : mul 1 b = b := by
  revert b; decide +kernel

/-- The map is the product with `c`. -/
theorem gfMul_right_comm : mul (mul a b) c = mul (mul a c) b :=
  map_gfMul a b (f := (mul · c)) (xor_gfMul · · c) fun x => (mul2_gfMul x c).symm

theorem gfMul_comm : mul a b = mul b a := by
  simpa only [one_gfMul] using gfMul_right_comm 1 a b

theorem gfMul_assoc : mul (mul a b) c = mul a (mul b c) := by
  rw [gfMul_comm a b, gfMul_right_comm, gfMul_comm]

theorem gfMul_xor : mul a (b ^^^ c) = mul a b ^^^ mul a c := by
  simp only [gfMul_comm a, xor_gfMul]

theorem gfMul_one : mul a 1 = a := by
  rw [gfMul_comm, one_gfMul]

theorem zero_gfMul : mul 0 a = 0 :=
  map_zero_of_map_xor (f := (mul · a)) (xor_gfMul · · a)

theorem gfMul_zero : mul a 0 = 0 := by
  rw [gfMul_comm, zero_gfMul]

theorem two_gfMul : mul 2 a = mul2 a := by
  rw [← one_gfMul a, mul2_gfMul, one_gfMul]
  rfl

theorem three_gfMul : mul 3 a = mul2 a ^^^ a := by
  rw [show (3 : Byte) = 2 ^^^ 1 from rfl, xor_gfMul, two_gfMul, one_gfMul]

/-- 0x8D is half of 0x01. -/
theorem gfMul_half : mul a 0x8D = div2 a := by
  have hhalf : mul2 0x8D = 1 := by decide
  rw [← div2_mul2 (mul a 0x8D), gfMul_comm, mul2_gfMul, hhalf, one_gfMul]

/-- R175's first form as the pseudocode's accumulation. -/
theorem gfMul_eq_foldl : mul a b =
    (List.range 8).foldl (fun acc i => if b.getLsbD i = true then acc ^^^ mul2Pow i a else acc) 0 := by
  have hterm : ∀ (acc : Byte) (i : Nat),
      (if b.getLsbD i = true then acc ^^^ mul2Pow i a else acc) = acc ^^^ mulTerm a b i := by
    intro acc i
    unfold mulTerm
    split <;> simp
  simp [hterm, List.range_succ, mul]

end Sys2Proof.Machine
end

section
/-! SUPPORT. The logarithm tables of the GF unit (spec/42_gf_primitives.md R172 to R177): the powers of the generator
0x03 (log entry 14), O34, O35, the inverse, O36, and the table form of the product, O37. -/

namespace Sys2Proof.Machine

/-! ### The powers of the generator -/

theorem power_add (g : Byte) (m n : Nat) : power g (m + n) = mul (power g m) (power g n) := by
  induction m with
  | zero => rw [Nat.zero_add, power, one_gfMul]
  | succ m ih => rw [Nat.succ_add, power, power, ih, gfMul_assoc]

/-- R177: each cell of the table is 0x03 times the cell before it. -/
theorem alog_succ (e : Byte) (he : e ≠ 255) : alog (e + 1) = mul 0x03 (alog e) := by
  revert e; decide +kernel

theorem power_eq_alog {k : Nat} (hk : k ≤ 255) : power 0x03 k = alog (BitVec.ofNat 8 k) := by
  induction k with
  | zero => decide
  | succ k ih =>
    have he : BitVec.ofNat 8 k ≠ 255 := by bv_omega
    rw [power, ih (by omega), ← alog_succ _ he, BitVec.ofNat_add]
    rfl

theorem alog_eq_power (e : Byte) : alog e = power 0x03 e.toNat := by
  rw [power_eq_alog (Nat.le_of_lt_succ e.isLt), BitVec.ofNat_toNat, BitVec.setWidth_eq]

/-- The generator's order divides 255. -/
theorem power_255 : power 0x03 255 = 1 := by
  rw [power_eq_alog (Nat.le_refl 255)]
  decide

theorem power_mod_255 (k : Nat) : power 0x03 (k % 255) = power 0x03 k := by
  have hperiod : Function.Periodic (power 0x03) 255 := fun k => by
    rw [power_add, power_255, gfMul_one]
  exact hperiod.map_mod_nat k

theorem alog_ofNat_mod_255 (k : Nat) : alog (BitVec.ofNat 8 (k % 255)) = power 0x03 k := by
  rw [← power_eq_alog (by omega), power_mod_255]

/-! ### The logarithm -/

/-- R176 against R177: the two tables are inverse on the nonzero bytes. -/
theorem alog_log {x : Byte} (hx : x ≠ 0) : alog (log x) = x := by
  revert x; decide +kernel

/-- R177 against R176: the same on the exponents modulo 255. -/
theorem log_alog (e : Byte) : (log (alog e)).toNat = e.toNat % 255 := by
  revert e; decide +kernel

theorem alog_ne_zero (e : Byte) : alog e ≠ 0 := by
  revert e; decide +kernel

theorem log_le (x : Byte) : (log x).toNat ≤ 254 := by
  revert x; decide +kernel

theorem power_log {x : Byte} (hx : x ≠ 0) : power 0x03 (log x).toNat = x := by
  rw [← alog_eq_power, alog_log hx]

/-- Below the order an exponent is the logarithm of its power. -/
theorem log_power {k : Nat} (hk : k ≤ 254) : (log (power 0x03 k)).toNat = k := by
  rw [power_eq_alog (by omega), log_alog, BitVec.toNat_ofNat]
  omega

/-- Settles O34: the table's cell is a logarithm, and the table finds every exponent again. -/
theorem logRule : Obligations.LogRule := by
  refine ⟨fun _ => rfl, fun s x hx => ⟨log x, if_neg hx, log_le x, power_log hx, ?_⟩, fun _ => rfl, by decide⟩
  rintro k hk rfl
  exact (log_power hk).symm

/-- Settles O35: the table holds the powers of the generator. -/
theorem alogRule : Obligations.AlogRule := by
  refine ⟨fun _ => rfl, fun s e => ?_, fun _ => alog_log, fun e => ⟨log_alog e, alog_ne_zero e⟩, by decide⟩
  rw [power_mod_255, ← alog_eq_power]
  rfl

/-! ### The inverse -/

theorem gfMul_gfInv {x : Byte} (hx : x ≠ 0) : mul x (inv x) = 1 := by
  have hlog : (log x).toNat + (255 - (log x).toNat) = 255 := by
    have := log_le x
    omega
  calc mul x (inv x)
      = mul (power 0x03 (log x).toNat) (power 0x03 (255 - (log x).toNat)) := by
        rw [power_log hx, inv, if_neg hx, alog_ofNat_mod_255]
    _ = 1 := by rw [← power_add, hlog, power_255]

/-- R174: the inverse is the only one. -/
theorem gfMul_eq_one_iff {x y : Byte} (hx : x ≠ 0) : mul x y = 1 ↔ y = inv x := by
  constructor
  · intro h
    calc y = mul (mul x (inv x)) y := by rw [gfMul_gfInv hx, one_gfMul]
      _ = mul (mul x y) (inv x) := gfMul_right_comm ..
      _ = inv x := by rw [h, one_gfMul]
  · rintro rfl
    exact gfMul_gfInv hx

theorem gfInv_zero : inv 0 = 0 :=
  if_pos rfl

theorem gfInv_ne_zero {x : Byte} (hx : x ≠ 0) : inv x ≠ 0 := by
  intro h
  have h1 := gfMul_gfInv hx
  rw [h, gfMul_zero] at h1
  exact absurd h1 (by decide)

theorem gfInv_gfInv (x : Byte) : inv (inv x) = x := by
  by_cases hx : x = 0
  · rw [hx, gfInv_zero, gfInv_zero]
  · rw [eq_comm, ← gfMul_eq_one_iff (gfInv_ne_zero hx), gfMul_comm, gfMul_gfInv hx]

/-- Settles O36: the table form answers the inverse, which is the only one. -/
theorem inverseRule : Obligations.InverseRule :=
  ⟨fun _ => rfl, fun _ _ => rfl, fun _ _ => gfMul_eq_one_iff, gfInv_gfInv, by decide⟩

/-! ### The table form of the product -/

/-- R175: the logarithms of the factors add. -/
theorem gfMul_eq_mulByTables (a b : Byte) : mul a b = mulByTables a b := by
  unfold mulByTables
  split
  · next h =>
    obtain rfl | rfl := h
    · exact zero_gfMul b
    · exact gfMul_zero a
  · next h =>
    obtain ⟨ha, hb⟩ := not_or.1 h
    rw [alog_ofNat_mod_255, power_add, power_log ha, power_log hb]

/-- Settles O37: the laws of the product, and its two forms. -/
theorem mulRule : Obligations.MulRule := by
  refine ⟨fun _ _ => rfl, fun _ _ _ => rfl, gfMul_eq_foldl, gfMul_eq_mulByTables, gfMul_comm, gfMul_assoc, gfMul_xor,
    fun a => ⟨gfMul_one a, ?_, gfMul_half a, gfMul_zero a, zero_gfMul a⟩, by decide⟩
  rw [gfMul_comm, two_gfMul]

end Sys2Proof.Machine
end

section
/-! SUPPORT. The product of a column with a matrix (spec/44_aes_round.md R205, R206) and `AES.MIXCOLUMNS`, O42. -/

namespace Sys2Proof.Machine

/-- R205, R206: an element of the mixed state, in the column `c` it stands in. -/
theorem byteAt_mixBy (m0 m1 m2 m3 : Byte) (st : Block) {r c : Nat} (hr : r < 4) (hc : c < 4) :
    byteAt (mixBy m0 m1 m2 m3 st) (4 * c + r) =
      mul m0 (byteAt st (4 * c + r)) ^^^ mul m1 (byteAt st (4 * c + (r + 1) % 4)) ^^^
      mul m2 (byteAt st (4 * c + (r + 2) % 4)) ^^^ mul m3 (byteAt st (4 * c + (r + 3) % 4)) := by
  have hrow : (4 * c + r) % 4 = r := by omega
  have hcol : (4 * c + r) / 4 = c := by omega
  have hindex : ∀ r', stateIndex r' c = 4 * c + r' := by
    intro r'
    rw [stateIndex, Nat.mod_eq_of_lt hc, Nat.add_comm]
  rw [byteAt, dif_pos (by omega), mixBy, Vector.getElem_ofFn]
  simp only [hrow, hcol, hindex]

/-- R205: an element of the state `AES.MIXCOLUMNS` leaves. -/
theorem byteAt_mixColumns (st : Block) {r c : Nat} (hr : r < 4) (hc : c < 4) :
    byteAt (mixColumns st) (4 * c + r) =
      mul 2 (byteAt st (4 * c + r)) ^^^ mul 3 (byteAt st (4 * c + (r + 1) % 4)) ^^^
      byteAt st (4 * c + (r + 2) % 4) ^^^ byteAt st (4 * c + (r + 3) % 4) := by
  rw [mixColumns, byteAt_mixBy _ _ _ _ _ hr hc, one_gfMul, one_gfMul]

/-- The sum of a column, taken from any of its rows on. -/
theorem xor_column_rotate (a : Nat → Byte) {i : Nat} (hi : i < 4) :
    a 0 ^^^ a 1 ^^^ a 2 ^^^ a 3 = a i ^^^ (a ((i + 1) % 4) ^^^ a ((i + 2) % 4) ^^^ a ((i + 3) % 4)) := by
  obtain rfl | rfl | rfl | rfl : i = 0 ∨ i = 1 ∨ i = 2 ∨ i = 3 := by omega
  all_goals
    simp only [Nat.reduceAdd, Nat.reduceMod]
    ac_rfl

/-- R205: the form with doubling only. -/
theorem mixColumn_eq_doubling (a : Nat → Byte) {i : Nat} (hi : i < 4) :
    mul 2 (a i) ^^^ mul 3 (a ((i + 1) % 4)) ^^^ a ((i + 2) % 4) ^^^ a ((i + 3) % 4) =
      a i ^^^ (a 0 ^^^ a 1 ^^^ a 2 ^^^ a 3) ^^^ mul2 (a i ^^^ a ((i + 1) % 4)) := by
  rw [xor_column_rotate a hi, ← BitVec.xor_assoc (a i) (a i), BitVec.xor_self, BitVec.zero_xor, two_gfMul,
    three_gfMul, mul2_xor]
  ac_rfl

/-- Settles O42: every element is its row of the matrix times the column; the last two clauses are the form with
doubling only, which equal bytes leave as they are. -/
theorem mixColumnsRule : Obligations.MixColumnsRule := by
  refine ⟨fun _ => rfl, fun p s hm => ⟨_, rfl, ?_⟩, fun st c hc => ?_⟩
  · obtain ⟨hstored, -, hframe⟩ := blockInPlace_spec mixColumns p s hm
    exact ⟨hstored, hframe⟩
  intro a b x
  have hrow : ∀ i, i < 4 →
      b i = mul 2 (a i) ^^^ mul 3 (a ((i + 1) % 4)) ^^^ a ((i + 2) % 4) ^^^ a ((i + 3) % 4) :=
    fun i hi => byteAt_mixColumns st hi hc
  have hdoubling : ∀ i, i < 4 → b i = a i ^^^ x ^^^ mul2 (a i ^^^ a ((i + 1) % 4)) :=
    fun i hi => (hrow i hi).trans (mixColumn_eq_doubling a hi)
  refine ⟨?_, ?_, ?_, ?_, hdoubling, fun h01 h12 h23 i hi => ?_⟩
  · exact hrow 0 (by decide)
  · simp only [hrow 1 (by decide), Nat.reduceAdd, Nat.reduceMod]
    ac_rfl
  · simp only [hrow 2 (by decide), Nat.reduceAdd, Nat.reduceMod]
    ac_rfl
  · simp only [hrow 3 (by decide), Nat.reduceAdd, Nat.reduceMod]
    ac_rfl
  · have hall : ∀ j, j < 4 → a j = a 0 := by
      intro j hj
      obtain rfl | rfl | rfl | rfl : j = 0 ∨ j = 1 ∨ j = 2 ∨ j = 3 := by omega
      all_goals simp only [h01, h12, h23]
    have hx : x = 0 := by simp [x, h01, h12, h23]
    have hmul2 : mul2 0#8 = 0#8 := rfl
    rw [hdoubling i hi, hx, hall _ hi, hall _ (Nat.mod_lt _ (by decide)), BitVec.xor_self, hmul2, BitVec.xor_zero]
    exact BitVec.xor_zero

end Sys2Proof.Machine
end

section
/-! SUPPORT. The S-box provider (spec/43_aes_sbox.md R190 to R196): its two strategies agree, O39, so that the S-box is
the affine transform of the field inverse whichever is configured, O38. -/

namespace Sys2Proof.Machine

variable (s : State) (x y : Byte)

/-! ### The affine transform -/

@[simp] theorem affineInv_affine : affineInv (affine x) = x := by
  revert x; decide +kernel

@[simp] theorem affine_affineInv : affine (affineInv y) = y := by
  revert y; decide +kernel

/-! ### The strategies -/

/-- R195 against R190. -/
theorem sboxRom_eq : sboxRom x = affine (inv x) := by
  revert x; decide +kernel

/-- R196 against R194. -/
theorem invSboxRom_eq : invSboxRom y = inv (affineInv y) := by
  revert y; decide +kernel

/-- Settles O39: the printed tables hold the computed values. -/
theorem sboxStrategiesAgree : Obligations.SboxStrategiesAgree :=
  fun x => ⟨sboxRom_eq x, invSboxRom_eq x⟩

theorem sboxBy_eq (strategy : Strategy) : sboxBy strategy x = affine (inv x) := by
  cases strategy with
  | table => exact sboxRom_eq x
  | computed => rfl

theorem invSboxBy_eq (strategy : Strategy) : invSboxBy strategy y = inv (affineInv y) := by
  cases strategy with
  | table => exact invSboxRom_eq y
  | computed => rfl

/-! ### The S-box -/

theorem sbox_eq : sbox x = affine (inv x) :=
  sboxBy_eq x _

theorem invSbox_eq : invSbox y = inv (affineInv y) :=
  invSboxBy_eq y _

/-- R192: each of the two steps of `S` is undone in turn. -/
@[simp] theorem invSbox_sbox : invSbox (sbox x) = x := by
  rw [invSbox_eq, sbox_eq, affineInv_affine, gfInv_gfInv]

@[simp] theorem sbox_invSbox : sbox (invSbox y) = y := by
  rw [sbox_eq, invSbox_eq, gfInv_gfInv, affine_affineInv]

theorem sbox_bijective : Function.Bijective sbox :=
  Function.bijective_iff_has_inverse.2 ⟨invSbox, invSbox_sbox, sbox_invSbox⟩

/-- R190: no byte is its own image, nor the complement of its image. -/
theorem sbox_ne : sbox x ≠ x ∧ sbox x ≠ x ^^^ 0xFF := by
  revert x; decide +kernel

theorem exec_aesSbox : exec (.aesSbox x) s = .next (respond (.val (affine (inv x))) s) := by
  rw [← sbox_eq]
  rfl

theorem exec_aesIsbox : exec (.aesIsbox y) s = .next (respond (.val (inv (affineInv y))) s) := by
  rw [← invSbox_eq]
  rfl

/-- Settles O38: the inverse S-box undoes `S` from either side; that no byte is fixed is read off its values. -/
theorem sboxRule : Obligations.SboxRule :=
  ⟨fun _ => ⟨rfl, rfl⟩, fun s x => ⟨exec_aesSbox s x, exec_aesIsbox s x⟩, sbox_bijective,
    fun x => ⟨invSbox_sbox x, affineInv_affine x, sbox_ne x⟩, by decide⟩

end Sys2Proof.Machine
end

section
/-! SUPPORT. The round commands on the block in `BUF` (spec/44_aes_round.md R200 to R206), element by element:
`AES.SUBBYTES`, O40, `AES.SHIFTROWS`, O41, `AES.ADDROUNDKEY`, O44, and `AES.IMIXCOLUMNS`, O43. -/

namespace Sys2Proof.Machine

/-- Byte arrays that agree at each of their indices are equal. -/
theorem ext_byteAt {n : Nat} {v w : Bytes n} (h : ∀ i, i < n → byteAt v i = byteAt w i) : v = w := by
  refine Vector.ext fun i hi => ?_
  simpa only [byteAt, dif_pos hi] using h i hi

/-- A request that is its function in place is a block command. -/
theorem blockCommand_of_exec {i : Instr} {p : Addr} {f : Block → Block}
    (h : ∀ s, exec i s = .next (blockInPlace f p s)) : BlockCommand i p f := by
  intro s hm
  obtain ⟨hstored, -, hframe⟩ := blockInPlace_spec f p s hm
  exact ⟨_, h s, hstored, hframe⟩

/-! ### The S-box on every byte -/

theorem byteAt_subBytes (st : Block) {i : Nat} (hi : i < 16) : byteAt (subBytes st) i = sbox (byteAt st i) := by
  rw [byteAt, dif_pos hi, subBytes, Vector.getElem_ofFn]

theorem byteAt_invSubBytes (st : Block) {i : Nat} (hi : i < 16) :
    byteAt (invSubBytes st) i = invSbox (byteAt st i) := by
  rw [byteAt, dif_pos hi, invSubBytes, Vector.getElem_ofFn]

@[simp] theorem invSubBytes_subBytes (st : Block) : invSubBytes (subBytes st) = st :=
  ext_byteAt fun i hi => by rw [byteAt_invSubBytes _ hi, byteAt_subBytes _ hi, invSbox_sbox]

/-- Settles O40: the S-box is undone at every byte. -/
theorem subBytesRule : Obligations.SubBytesRule :=
  ⟨fun _ => ⟨rfl, rfl⟩,
    fun _ => ⟨blockCommand_of_exec fun _ => rfl, blockCommand_of_exec fun _ => rfl⟩,
    fun st _ hi => ⟨byteAt_subBytes st hi, byteAt_invSubBytes st hi⟩, invSubBytes_subBytes⟩

/-! ### The rotation of the rows -/

theorem byteAt_shiftRows (st : Block) {i : Nat} (hi : i < 16) :
    byteAt (shiftRows st) i = byteAt st (stateIndex (i % 4) (i / 4 + i % 4)) := by
  rw [byteAt, dif_pos hi, shiftRows, Vector.getElem_ofFn]

theorem byteAt_invShiftRows (st : Block) {i : Nat} (hi : i < 16) :
    byteAt (invShiftRows st) i = byteAt st (stateIndex (i % 4) (i / 4 + 4 - i % 4)) := by
  rw [byteAt, dif_pos hi, invShiftRows, Vector.getElem_ofFn]

/-- R203: the list P. -/
theorem shiftRows_index {i : Nat} (hi : i < 16) :
    stateIndex (i % 4) (i / 4 + i % 4) = [0, 5, 10, 15, 4, 9, 14, 3, 8, 13, 2, 7, 12, 1, 6, 11].getD i 0 := by
  revert i; decide

/-- R204: the list Q. -/
theorem invShiftRows_index {i : Nat} (hi : i < 16) :
    stateIndex (i % 4) (i / 4 + 4 - i % 4) = [0, 13, 10, 7, 4, 1, 14, 11, 8, 5, 2, 15, 12, 9, 6, 3].getD i 0 := by
  revert i; decide

/-- A column moved right by its row and then left by it is the column again. -/
@[simp] theorem invShiftRows_shiftRows (st : Block) : invShiftRows (shiftRows st) = st := by
  refine ext_byteAt fun i hi => ?_
  have hlt : stateIndex (i % 4) (i / 4 + 4 - i % 4) < 16 := by
    unfold stateIndex
    omega
  rw [byteAt_invShiftRows _ hi, byteAt_shiftRows _ hlt]
  congr 1
  unfold stateIndex
  omega

/-- Settles O41: both commands read each byte at its index in the rule's list, which is the rotation of its row. -/
theorem shiftRowsRule : Obligations.ShiftRowsRule := by
  refine ⟨fun _ => ⟨rfl, rfl⟩,
    fun _ => ⟨blockCommand_of_exec fun _ => rfl, blockCommand_of_exec fun _ => rfl⟩,
    fun st r c hr hc => ?_, fun st i hi => ?_, invShiftRows_shiftRows⟩
  · have hrow : (r + 4 * c) % 4 = r := by omega
    have hcol : (r + 4 * c) / 4 = c := by omega
    rw [byteAt_shiftRows _ (by omega), byteAt_invShiftRows _ (by omega), hrow, hcol]
    exact ⟨rfl, rfl⟩
  · rw [byteAt_shiftRows _ hi, byteAt_invShiftRows _ hi, shiftRows_index hi, invShiftRows_index hi]
    exact ⟨rfl, rfl⟩

/-! ### The addition of a key -/

@[simp] theorem addRoundKey_addRoundKey (st k : Block) : addRoundKey (addRoundKey st k) k = st :=
  ext_byteAt fun i hi => by
    rw [byteAt_addRoundKey _ _ hi, byteAt_addRoundKey _ _ hi, BitVec.xor_assoc, BitVec.xor_self, BitVec.xor_zero]

theorem addRoundKey_zero (st : Block) : addRoundKey st (Vector.replicate 16 0) = st := by
  refine ext_byteAt fun i hi => ?_
  have hzero : byteAt (Vector.replicate 16 (0 : Byte)) i = 0 := by
    rw [byteAt, dif_pos hi, Vector.getElem_replicate]
  rw [byteAt_addRoundKey _ _ hi, hzero]
  exact BitVec.xor_zero

/-- Settles O44: where the operands lie apart the command adds the key in place. -/
theorem addRoundKeyRule : Obligations.AddRoundKeyRule := by
  refine ⟨fun _ _ => rfl, fun s b k hm hov => ?_, fun _ _ _ hov => if_pos hov, fun _ b => if_pos ?_,
    fun st k => ⟨addRoundKey_addRoundKey st k, addRoundKey_zero st⟩⟩
  · obtain ⟨⟨hbytes, hrest⟩, -, hframe⟩ := blockInPlace_spec (addRoundKey · (readBytes s k 16)) b s hm
    refine ⟨_, if_neg (by simp [hov]), fun i hi => ?_, hrest, hframe⟩
    rw [hbytes i hi, byteAt_addRoundKey _ _ hi, byteAt_readBytes _ _ hi, byteAt_readBytes _ _ hi]
  · simp [overlaps_iff]

/-! ### Products of column matrices -/

/-- An index of the block stands in a row and a column (R74). -/
theorem exists_row_column {i : Nat} (hi : i < 16) : ∃ r c, r < 4 ∧ c < 4 ∧ i = 4 * c + r :=
  ⟨i % 4, i / 4, by omega, by omega, by omega⟩

/-- Two such matrices in turn are one: their first rows multiply as polynomials modulo `x^4 + 1`. -/
theorem mixBy_mixBy (m0 m1 m2 m3 n0 n1 n2 n3 : Byte) (st : Block) :
    mixBy m0 m1 m2 m3 (mixBy n0 n1 n2 n3 st) =
      mixBy (mul m0 n0 ^^^ mul m1 n3 ^^^ mul m2 n2 ^^^ mul m3 n1)
        (mul m0 n1 ^^^ mul m1 n0 ^^^ mul m2 n3 ^^^ mul m3 n2)
        (mul m0 n2 ^^^ mul m1 n1 ^^^ mul m2 n0 ^^^ mul m3 n3)
        (mul m0 n3 ^^^ mul m1 n2 ^^^ mul m2 n1 ^^^ mul m3 n0) st := by
  refine ext_byteAt fun i hi => ?_
  obtain ⟨r, c, hr, hc, rfl⟩ := exists_row_column hi
  have hmod : ∀ j, (r + j) % 4 < 4 := fun j => Nat.mod_lt _ (by decide)
  simp only [byteAt_mixBy _ _ _ _ _ hr hc, byteAt_mixBy _ _ _ _ _ (hmod _) hc, gfMul_xor, xor_gfMul, gfMul_assoc]
  obtain rfl | rfl | rfl | rfl : r = 0 ∨ r = 1 ∨ r = 2 ∨ r = 3 := by omega
  all_goals
    simp only [Nat.reduceAdd, Nat.reduceMod]
    ac_rfl

theorem mixBy_one (st : Block) : mixBy 1 0 0 0 st = st := by
  refine ext_byteAt fun i hi => ?_
  obtain ⟨r, c, hr, hc, rfl⟩ := exists_row_column hi
  rw [byteAt_mixBy _ _ _ _ _ hr hc, one_gfMul, zero_gfMul, zero_gfMul, zero_gfMul]
  exact (BitVec.xor_zero.trans BitVec.xor_zero).trans BitVec.xor_zero

/-- R206: the two matrices are inverse, since their coefficients multiply to the first row 1, 0, 0, 0. -/
@[simp] theorem invMixColumns_mixColumns (st : Block) : invMixColumns (mixColumns st) = st := by
  rw [invMixColumns, mixColumns, mixBy_mixBy]
  exact mixBy_one st

@[simp] theorem mixColumns_invMixColumns (st : Block) : mixColumns (invMixColumns st) = st := by
  rw [invMixColumns, mixColumns, mixBy_mixBy]
  exact mixBy_one st

/-- R206: the inverse matrix is the matrix of `AES.MIXCOLUMNS` after the one of first row 5, 0, 4, 0. -/
theorem invMixColumns_eq (st : Block) : invMixColumns st = mixColumns (mixBy 5 0 4 0 st) := by
  rw [mixColumns, mixBy_mixBy]
  rfl

/-! ### `AES.IMIXCOLUMNS` -/

theorem four_gfMul (a : Byte) : mul 4 a = mul2 (mul2 a) := by
  rw [show (4 : Byte) = mul 2 2 from rfl, gfMul_assoc, two_gfMul, two_gfMul]

theorem five_gfMul (a : Byte) : mul 5 a = a ^^^ mul2 (mul2 a) := by
  rw [show (5 : Byte) = 1 ^^^ 4 from rfl, xor_gfMul, one_gfMul, four_gfMul]

/-- R206: what the derived form adds to an element before the column is mixed as R205 does. -/
theorem byteAt_mixBy_five_four (st : Block) {r c : Nat} (hr : r < 4) (hc : c < 4) :
    byteAt (mixBy 5 0 4 0 st) (4 * c + r) =
      byteAt st (4 * c + r) ^^^ mul2 (mul2 (byteAt st (4 * c + r) ^^^ byteAt st (4 * c + (r + 2) % 4))) := by
  rw [byteAt_mixBy _ _ _ _ _ hr hc, five_gfMul, four_gfMul, zero_gfMul, zero_gfMul, mul2_xor, mul2_xor]
  simp only [BitVec.ofNat_eq_ofNat, BitVec.xor_zero, BitVec.xor_assoc]

/-- R206: an element of the state `AES.IMIXCOLUMNS` leaves. -/
theorem byteAt_invMixColumns (st : Block) {r c : Nat} (hr : r < 4) (hc : c < 4) :
    byteAt (invMixColumns st) (4 * c + r) =
      mul 14 (byteAt st (4 * c + r)) ^^^ mul 11 (byteAt st (4 * c + (r + 1) % 4)) ^^^
      mul 13 (byteAt st (4 * c + (r + 2) % 4)) ^^^ mul 9 (byteAt st (4 * c + (r + 3) % 4)) :=
  byteAt_mixBy 14 11 13 9 st hr hc

/-- R206: the form with doubling only, the column `d` standing for the one R205's form is applied to. -/
theorem invMixColumn_eq_doubling (st : Block) {c : Nat} (hc : c < 4) {d : Nat → Byte}
    (hd : ∀ i, i < 4 → d i = byteAt (mixBy 5 0 4 0 st) (4 * c + i)) {i : Nat} (hi : i < 4) :
    byteAt (invMixColumns st) (4 * c + i) =
      d i ^^^ (d 0 ^^^ d 1 ^^^ d 2 ^^^ d 3) ^^^ mul2 (d i ^^^ d ((i + 1) % 4)) := by
  have hmod : ∀ j, j % 4 < 4 := fun j => Nat.mod_lt j (by decide)
  rw [invMixColumns_eq, byteAt_mixColumns _ hi hc, ← mixColumn_eq_doubling d hi, hd i hi, hd _ (hmod _),
    hd _ (hmod _), hd _ (hmod _)]

/-- A column of equal bytes, read at any of its rows. -/
theorem column_const {a : Nat → Byte} (h01 : a 0 = a 1) (h12 : a 1 = a 2) (h23 : a 2 = a 3) {j : Nat} (hj : j < 4) :
    a j = a 0 := by
  obtain rfl | rfl | rfl | rfl : j = 0 ∨ j = 1 ∨ j = 2 ∨ j = 3 := by omega
  all_goals simp only [h01, h12, h23]

/-- Equal bytes are kept: the coefficients of a row add to 1. -/
theorem invMixRow_const (a : Byte) : mul 14 a ^^^ mul 11 a ^^^ mul 13 a ^^^ mul 9 a = a := by
  rw [← xor_gfMul, ← xor_gfMul, ← xor_gfMul]
  exact one_gfMul a

/-- Settles O43: every element is its row of the matrix times the column; the form with doubling only is R205's, applied
to the column `d`; the matrices are inverse. -/
theorem invMixColumnsRule : Obligations.InvMixColumnsRule := by
  refine ⟨fun _ => rfl, fun _ => blockCommand_of_exec fun _ => rfl, fun st c hc => ?_,
    fun st => ⟨invMixColumns_mixColumns st, mixColumns_invMixColumns st⟩⟩
  intro a b u v d x
  have hrow : ∀ i, i < 4 → b i =
      mul 14 (a i) ^^^ mul 11 (a ((i + 1) % 4)) ^^^ mul 13 (a ((i + 2) % 4)) ^^^ mul 9 (a ((i + 3) % 4)) :=
    fun i hi => byteAt_invMixColumns st hi hc
  have hd : ∀ i, i < 4 → d i = byteAt (mixBy 5 0 4 0 st) (4 * c + i) := by
    intro i hi
    rw [byteAt_mixBy_five_four st hi hc]
    obtain rfl | rfl | rfl | rfl : i = 0 ∨ i = 1 ∨ i = 2 ∨ i = 3 := by omega
    · rfl
    · rfl
    · exact congrArg (fun y => a 2 ^^^ mul2 (mul2 y)) (BitVec.xor_comm _ _)
    · exact congrArg (fun y => a 3 ^^^ mul2 (mul2 y)) (BitVec.xor_comm _ _)
  refine ⟨hrow 0 (by decide), (hrow 1 (by decide)).trans (by ac_rfl), (hrow 2 (by decide)).trans (by ac_rfl),
    (hrow 3 (by decide)).trans (by ac_rfl), fun i hi => invMixColumn_eq_doubling st hc hd hi,
    fun h01 h12 h23 i hi => ?_⟩
  have hmod : ∀ j, a (j % 4) = a 0 := fun j => column_const h01 h12 h23 (Nat.mod_lt j (by decide))
  rw [hrow i hi, column_const h01 h12 h23 hi, hmod, hmod, hmod, invMixRow_const]

end Sys2Proof.Machine
end

section
/-! SUPPORT. The key steps (spec/45_aes_keysched.md R223 to R226), both sizes as one recurrence on the bytes of the key,
O45 and O46. -/

namespace Sys2Proof.Machine

/-! ### One statement of a step -/

section
variable {m : Nat} {k : Bytes m} {b c : Byte} {i j p : Nat}

theorem byteAt_xorByte_same (h : i < m) : byteAt (xorByte k i b) i = byteAt k i ^^^ b := by
  rw [byteAt_xorByte _ _ h, if_pos rfl]

theorem byteAt_xorByte_of_ne (h : j ≠ i) : byteAt (xorByte k i b) j = byteAt k j := by
  by_cases hj : j < m
  · rw [byteAt_xorByte _ _ hj, if_neg h]
  · simp [byteAt, hj]

/-- The same byte added twice to one element. -/
theorem xorByte_xorByte : xorByte (xorByte k i b) i b = k := by
  refine ext_byteAt fun j hj => ?_
  by_cases h : j = i
  · subst h
    rw [byteAt_xorByte_same hj, byteAt_xorByte_same hj, BitVec.xor_assoc, BitVec.xor_self, BitVec.xor_zero]
  · rw [byteAt_xorByte_of_ne h, byteAt_xorByte_of_ne h]

/-! ### The statements on the first word -/

theorem byteAt_keyCore_of_le (hj : 4 ≤ j) : byteAt (keyCore p c k) j = byteAt k j := by
  simp (disch := omega) only [keyCore, byteAt_xorByte_of_ne]

/-- R223, R225: the first word takes the last word `k[p..p+3]`, rotated and substituted, and the constant in its first
byte. -/
theorem byteAt_keyCore_of_lt (hm : 4 ≤ m) (hp : 4 ≤ p) (hi : i < 4) :
    byteAt (keyCore p c k) i =
      byteAt k i ^^^
        (if i = 0 then sbox (byteAt k (p + 1)) ^^^ c else sbox (byteAt k (p + (i + 1) % 4))) := by
  obtain rfl | rfl | rfl | rfl : i = 0 ∨ i = 1 ∨ i = 2 ∨ i = 3 := by omega
  all_goals simp (disch := omega) [keyCore, byteAt_xorByte_same, byteAt_xorByte_of_ne]

/-- What the first word takes does not depend on the first word, so the statements on it undo themselves. -/
theorem keyCore_keyCore (hm : 4 ≤ m) (hp : 4 ≤ p) : keyCore p c (keyCore p c k) = k := by
  refine ext_byteAt fun j _ => ?_
  by_cases hj : j < 4
  · rw [byteAt_keyCore_of_lt hm hp hj, byteAt_keyCore_of_lt hm hp hj, byteAt_keyCore_of_le (by omega),
      byteAt_keyCore_of_le (by omega), BitVec.xor_assoc, BitVec.xor_self, BitVec.xor_zero]
  · rw [byteAt_keyCore_of_le (by omega), byteAt_keyCore_of_le (by omega)]

/-! ### The statements on the later words -/

/-- `k[i] <- k[i] ^ g(i, k[i - 4])`: a statement of the cascade or of the middle of a 256-bit step, by `g`. -/
def chainByte (g : Nat → Byte → Byte) (k : Bytes m) (i : Nat) : Bytes m := xorByte k i (g i (byteAt k (i - 4)))

theorem cascade_eq (g : Nat → Byte → Byte) {is : List Nat} (h : ∀ i ∈ is, ∀ x, g i x = x) :
    cascade is k = is.foldl (chainByte g) k :=
  List.foldl_ext _ _ _ fun k i hi => by rw [cascadeByte, chainByte, h i hi]

theorem substitute_eq (g : Nat → Byte → Byte) {is : List Nat} (h : ∀ i ∈ is, ∀ x, g i x = sbox x) :
    substitute is k = is.foldl (chainByte g) k :=
  List.foldl_ext _ _ _ fun k i hi => by rw [substByte, chainByte, h i hi]

variable {g : Nat → Byte → Byte}

/-- A statement does not change what it reads beside its own element, so it undoes itself. -/
theorem chainByte_chainByte (hi : 4 ≤ i) : chainByte g (chainByte g k i) i = k := by
  have hread : byteAt (chainByte g k i) (i - 4) = byteAt k (i - 4) := byteAt_xorByte_of_ne (by omega)
  rw [chainByte, hread]
  exact xorByte_xorByte

/-- Statements in turn, and then in reverse order. -/
theorem foldl_reverse_chainByte {is : List Nat} (h : ∀ i ∈ is, 4 ≤ i) :
    is.reverse.foldl (chainByte g) (is.foldl (chainByte g) k) = k := by
  induction is generalizing k with
  | nil => rfl
  | cons x xs ih =>
    obtain ⟨hx, hxs⟩ := List.forall_mem_cons.1 h
    rw [List.reverse_cons, List.foldl_append, List.foldl_cons (l := xs), ih hxs]
    exact chainByte_chainByte hx

theorem byteAt_foldl_chainByte_of_notMem {is : List Nat} (h : j ∉ is) :
    byteAt (is.foldl (chainByte g) k) j = byteAt k j := by
  induction is generalizing k with
  | nil => rfl
  | cons x xs ih =>
    obtain ⟨hx, hxs⟩ := List.ne_and_not_mem_of_not_mem_cons h
    exact (ih hxs).trans (byteAt_xorByte_of_ne hx)

/-- R223, R225: in rising order each statement reads the element four below as the step leaves it. -/
theorem byteAt_foldl_chainByte {is : List Nat} (hrise : is.Pairwise (· < ·)) (h4 : ∀ i ∈ is, 4 ≤ i)
    (hm : i < m) (hi : i ∈ is) :
    byteAt (is.foldl (chainByte g) k) i = byteAt k i ^^^ g i (byteAt (is.foldl (chainByte g) k) (i - 4)) := by
  induction is generalizing k with
  | nil => cases hi
  | cons x xs ih =>
    obtain ⟨hlt, hrise⟩ := List.pairwise_cons.1 hrise
    obtain ⟨hx, h4⟩ := List.forall_mem_cons.1 h4
    rw [List.foldl_cons]
    obtain rfl | hmem := List.mem_cons.1 hi
    · have hread : byteAt (xs.foldl (chainByte g) (chainByte g k i)) (i - 4) = byteAt k (i - 4) :=
        (byteAt_foldl_chainByte_of_notMem fun h => by have := hlt _ h; omega).trans
          (byteAt_xorByte_of_ne (by omega))
      rw [hread, byteAt_foldl_chainByte_of_notMem fun h => lt_irrefl _ (hlt _ h)]
      exact byteAt_xorByte_same hm
    · rw [ih hrise h4 hmem]
      congr 1
      exact byteAt_xorByte_of_ne (hlt i hmem).ne'

/-! ### A whole step -/

/-- A forward step on a key of `m` bytes: the first word, then every later element in rising order. -/
def keyStep (g : Nat → Byte → Byte) (k : Bytes m) (c : Byte) : Bytes m :=
  (List.range' 4 (m - 4)).foldl (chainByte g) (keyCore (m - 4) c k)

/-- Its inverse: the same statements in reverse order. -/
def keyStepInv (g : Nat → Byte → Byte) (k : Bytes m) (c : Byte) : Bytes m :=
  keyCore (m - 4) c ((List.range' 4 (m - 4)).reverse.foldl (chainByte g) k)

theorem four_le_of_mem_range' {n : Nat} : ∀ i ∈ List.range' 4 n, 4 ≤ i := fun _ h => (List.mem_range'_1.1 h).1

theorem keyStepInv_keyStep (hm : 8 ≤ m) : keyStepInv g (keyStep g k c) c = k := by
  rw [keyStepInv, keyStep, foldl_reverse_chainByte four_le_of_mem_range', keyCore_keyCore (by omega) (by omega)]

theorem keyStep_keyStepInv (hm : 8 ≤ m) : keyStep g (keyStepInv g k c) c = k := by
  have h4 : ∀ i ∈ (List.range' 4 (m - 4)).reverse, 4 ≤ i := fun i hi => four_le_of_mem_range' i (List.mem_reverse.1 hi)
  have hundo := foldl_reverse_chainByte (g := g) (k := k) h4
  rw [List.reverse_reverse] at hundo
  rw [keyStepInv, keyStep, keyCore_keyCore (by omega) (by omega), hundo]

theorem byteAt_keyStep_of_lt (hm : 8 ≤ m) (hi : i < 4) :
    byteAt (keyStep g k c) i =
      byteAt k i ^^^
        (if i = 0 then sbox (byteAt k (m - 4 + 1)) ^^^ c else sbox (byteAt k (m - 4 + (i + 1) % 4))) := by
  rw [keyStep, byteAt_foldl_chainByte_of_notMem fun h => by have := four_le_of_mem_range' _ h; omega,
    byteAt_keyCore_of_lt (by omega) (by omega) hi]

theorem byteAt_keyStep_of_le (h4 : 4 ≤ i) (hi : i < m) :
    byteAt (keyStep g k c) i = byteAt k i ^^^ g i (byteAt (keyStep g k c) (i - 4)) := by
  have hmem : i ∈ List.range' 4 (m - 4) := List.mem_range'_1.2 ⟨h4, by omega⟩
  rw [keyStep, byteAt_foldl_chainByte List.pairwise_lt_range' four_le_of_mem_range' hi hmem, byteAt_keyCore_of_le h4]

/-- R223 to R226: what a step leaves in each byte, and the two steps undoing each other. -/
theorem keyStep_rule (g : Nat → Byte → Byte) (k : Bytes m) (c : Byte) (hm : 8 ≤ m) :
    byteAt (keyStep g k c) 0 = byteAt k 0 ^^^ sbox (byteAt k (m - 4 + 1)) ^^^ c ∧
    byteAt (keyStep g k c) 1 = byteAt k 1 ^^^ sbox (byteAt k (m - 4 + 2)) ∧
    byteAt (keyStep g k c) 2 = byteAt k 2 ^^^ sbox (byteAt k (m - 4 + 3)) ∧
    byteAt (keyStep g k c) 3 = byteAt k 3 ^^^ sbox (byteAt k (m - 4)) ∧
    (∀ i, 4 ≤ i → i < m → byteAt (keyStep g k c) i = byteAt k i ^^^ g i (byteAt (keyStep g k c) (i - 4))) ∧
    keyStepInv g (keyStep g k c) c = k ∧ keyStep g (keyStepInv g k c) c = k :=
  ⟨(byteAt_keyStep_of_lt hm (by decide)).trans (BitVec.xor_assoc ..).symm, byteAt_keyStep_of_lt hm (by decide),
    byteAt_keyStep_of_lt hm (by decide), byteAt_keyStep_of_lt hm (by decide), fun _ => byteAt_keyStep_of_le,
    keyStepInv_keyStep hm, keyStep_keyStepInv hm⟩

end

/-! ### The two sizes -/

theorem ks128Fwd_eq (k : Block) (c : Byte) : ks128Fwd k c = keyStep (fun _ x => x) k c := rfl

theorem ks128Inv_eq (k : Block) (c : Byte) : ks128Inv k c = keyStepInv (fun _ x => x) k c := rfl

/-- R225: the middle word of a 256-bit key takes the substituted byte, every other word the byte itself. -/
def middleSbox (i : Nat) (x : Byte) : Byte := if i / 4 = 4 then sbox x else x

theorem cascade_middleSbox (is : List Nat) (k : Key256) (h : ∀ i ∈ is, i / 4 ≠ 4) :
    cascade is k = is.foldl (chainByte middleSbox) k :=
  cascade_eq _ fun i hi _ => if_neg (h i hi)

theorem substitute_middleSbox (is : List Nat) (k : Key256) (h : ∀ i ∈ is, i / 4 = 4) :
    substitute is k = is.foldl (chainByte middleSbox) k :=
  substitute_eq _ fun i hi _ => if_pos (h i hi)

theorem ks256Fwd_eq (k : Key256) (c : Byte) : ks256Fwd k c = keyStep middleSbox k c := by
  rw [ks256Fwd, cascade_middleSbox _ _ (by decide), substitute_middleSbox _ _ (by decide),
    cascade_middleSbox _ _ (by decide), ← List.foldl_append, ← List.foldl_append]
  rfl

theorem ks256Inv_eq (k : Key256) (c : Byte) : ks256Inv k c = keyStepInv middleSbox k c := by
  rw [ks256Inv, cascade_middleSbox _ _ (by decide), substitute_middleSbox _ _ (by decide),
    cascade_middleSbox _ _ (by decide), ← List.foldl_append, ← List.foldl_append]
  rfl

/-! ### The commands -/

/-- A 128-bit key step in place: the bytes stored, and beside them `rk` only. -/
theorem key128InPlace_spec (f : Block → Block) (p : Addr) {s : State} (hm : Memory.wf s.buf = true) :
    Stored s (key128InPlace f p s) p (f (readBytes s p 16)) ∧
      { key128InPlace f p s with buf := s.buf, rk := s.rk } = respond .done s := by
  refine ⟨stored_respond _ _ _ rfl hm (by decide), ?_⟩
  unfold key128InPlace respond writeBytes
  cases s.context <;> rfl

/-- A 256-bit key step in place. -/
theorem key256InPlace_spec (f : Key256 → Key256) (p : Addr) {s : State} (hm : Memory.wf s.buf = true) :
    Stored s (key256InPlace f p s) p (f (readBytes s p 32)) ∧
      { key256InPlace f p s with buf := s.buf, rk := s.rk } = respond .done s := by
  refine ⟨stored_respond _ _ _ rfl hm (by decide), ?_⟩
  unfold key256InPlace respond writeBytes
  cases s.context <;> rfl

/-- Settles O45: the step is the recurrence with no substitution after the first word. -/
theorem keySteps128Rule : Obligations.KeySteps128Rule := by
  refine ⟨fun s p c hm => ⟨⟨_, rfl, key128InPlace_spec _ p hm⟩, ⟨_, rfl, key128InPlace_spec _ p hm⟩⟩, fun k c => ?_⟩
  simp only [ks128Fwd_eq, ks128Inv_eq]
  exact keyStep_rule (fun _ x => x) k c (by decide)

/-- Settles O46: the step is the recurrence with the substitution at the middle word. -/
theorem keySteps256Rule : Obligations.KeySteps256Rule := by
  refine ⟨fun s p c hm => ⟨⟨_, rfl, key256InPlace_spec _ p hm⟩, ⟨_, rfl, key256InPlace_spec _ p hm⟩⟩, fun k c => ?_⟩
  simp only [ks256Fwd_eq, ks256Inv_eq]
  exact keyStep_rule middleSbox k c (by decide)

end Sys2Proof.Machine
end

section
/-! SUPPORT. The round constants (spec/45_aes_keysched.md R220 to R222), O47: the loops change `rcon` by the doubling or
the halving alone. -/

namespace Sys2Proof.Machine

/-- A register that every pass of a loop maps by `f`: only the number of passes counts. -/
theorem foldl_register {W : Type} (rcon : W → Byte) (f : Byte → Byte) {body : W → Nat → W}
    (h : ∀ w i, rcon (body w i) = f (rcon w)) {is : List Nat} {n : Nat} (hn : is.length = n) (w : W) :
    rcon (is.foldl body w) = f^[n] (rcon w) := by
  subst hn
  induction is generalizing w with
  | nil => rfl
  | cons i is ih => rw [List.foldl_cons, ih, h, List.length_cons, Function.iterate_succ_apply]

/-- R240: at the end of `AES128.ENC` the constant is 1 doubled ten times. -/
theorem enc128_rcon (key blk : Block) : (enc128 key blk).rcon = mul2^[10] 0x01 :=
  foldl_register Work128.rcon mul2 (fun _ _ => rfl) (is := upTo 10) rfl _

/-- R241: at the end of `AES128.DEC` it is 0x36 halved ten times. -/
theorem dec128_rcon (key blk : Block) : (dec128 key blk).rcon = div2^[10] 0x36 :=
  foldl_register Work128.rcon div2 (fun _ _ => rfl) (is := downFrom 10) rfl _

/-- R243: at the end of `AES256.ENC` the constant is 1 doubled seven times. -/
theorem enc256_rcon (key : Key256) (blk : Block) : (enc256 key blk).rcon = mul2^[7] 0x01 :=
  foldl_register Work256.rcon mul2 (fun _ _ => rfl) (is := upTo 7) rfl _

/-- R244: at the end of `AES256.DEC` it is 0x40 halved seven times. -/
theorem dec256_rcon (key : Key256) (blk : Block) : (dec256 key blk).rcon = div2^[7] 0x40 :=
  foldl_register Work256.rcon div2 (fun _ _ => rfl) (is := downFrom 7) rfl _

/-- R242: `AES128.DERIVE` leaves the constant after the ten of its steps. -/
theorem derive128_snd (key : Block) : (derive128 key).2 = rconAt 10 :=
  congrArg Prod.snd (steps128_keyBlock128 10 0 key)

/-- R245: `AES256.DERIVE` leaves the constant after the seven of its steps. -/
theorem derive256_snd (key : Key256) : (derive256 key).2 = rconAt 7 :=
  congrArg Prod.snd (steps256_keyBlock256 7 0 key)

/-- Settles O47: a halving undoes the doubling that made a constant; what is left in `rcon` is the first constant of the
operation, doubled or halved at every pass. -/
theorem roundConstants : Obligations.RoundConstants := by
  refine ⟨by decide, fun _ => div2_mul2 _, by decide, by decide, fun k b => ?_, fun k b => ?_⟩
  · rw [enc128_rcon, dec128_rcon, derive128_snd]
    decide
  · rw [enc256_rcon, dec256_rcon, derive256_snd]
    decide

end Sys2Proof.Machine
end

section
/-! SUPPORT. `AES256.ENC` as the cipher over the round keys (spec/46_aes_block.md R243, R227), O52: an iteration of its
loop is two rounds, but for the key it adds at its beginning instead of the one at its end. -/

namespace Sys2Proof.Machine

/-- A round of the cipher with 14 rounds (R243). -/
def cipher256Round (key : Key256) (st : Block) (r : Nat) : Block :=
  addRoundKey (if r = 14 then shiftRows (subBytes st) else mixColumns (shiftRows (subBytes st))) (roundKey256 key r)

/-- The state after its first `r` rounds. -/
def cipher256After (key : Key256) (blk : Block) (r : Nat) : Block :=
  (upTo r).foldl (cipher256Round key) (addRoundKey blk (roundKey256 key 0))

theorem cipher256_eq (key : Key256) (blk : Block) : cipher256 key blk = cipher256After key blk 14 := rfl

theorem upTo_succ (r : Nat) : upTo (r + 1) = upTo r ++ [r + 1] := by
  rw [upTo, List.range'_1_concat, Nat.add_comm 1 r]
  rfl

theorem cipher256After_succ (key : Key256) (blk : Block) (r : Nat) :
    cipher256After key blk (r + 1) = cipher256Round key (cipher256After key blk r) (r + 1) := by
  rw [cipher256After, upTo_succ, List.foldl_append]
  rfl

/-- R227: a key block holds two round keys. -/
theorem roundKey256_even (key : Key256) (j : Nat) : roundKey256 key (2 * j) = slice (keyBlock256 j key) 0 16 := by
  have hdiv : 2 * j / 2 = j := by omega
  have hmod : 2 * j % 2 = 0 := by omega
  rw [roundKey256, hdiv, hmod]

theorem roundKey256_odd (key : Key256) (j : Nat) :
    roundKey256 key (2 * j + 1) = slice (keyBlock256 j key) 16 16 := by
  have hdiv : (2 * j + 1) / 2 = j := by omega
  have hmod : (2 * j + 1) % 2 = 1 := by omega
  rw [roundKey256, hdiv, hmod]

/-- The registers after the first `j` iterations of R243's loop. -/
def enc256After (key : Key256) (blk : Block) (j : Nat) : Work256 :=
  (upTo j).foldl enc256Round { st := blk, rk := key, rcon := 0x01 }

theorem enc256After_succ (key : Key256) (blk : Block) (j : Nat) :
    enc256After key blk (j + 1) = enc256Round (enc256After key blk j) (j + 1) := by
  rw [enc256After, upTo_succ, List.foldl_append]
  rfl

theorem enc256_st (key : Key256) (blk : Block) : (enc256 key blk).st =
    addRoundKey (enc256After key blk 7).st (slice (enc256After key blk 7).rk 0 16) := rfl

/-- The key registers follow the schedule (R220, R227). -/
theorem enc256After_key (key : Key256) (blk : Block) (j : Nat) :
    (enc256After key blk j).rk = keyBlock256 j key ∧ (enc256After key blk j).rcon = rconAt j := by
  induction j with
  | zero => exact ⟨rfl, rfl⟩
  | succ j ih =>
    obtain ⟨hrk, hrcon⟩ := ih
    rw [enc256After_succ, enc256Round, hrk, hrcon]
    exact ⟨rfl, rfl⟩

/-- With the key of the next iteration added, the state after `j` iterations is the cipher's after `2 j` rounds. -/
theorem enc256After_st (key : Key256) (blk : Block) (j : Nat) :
    addRoundKey (enc256After key blk j).st (roundKey256 key (2 * j)) = cipher256After key blk (2 * j) := by
  induction j with
  | zero => rfl
  | succ j ih =>
    have hodd : ¬ 2 * j + 1 = 14 := by omega
    have hlast : 2 * j + 1 + 1 = 14 ↔ j + 1 = 7 := by omega
    obtain ⟨hrk, -⟩ := enc256After_key key blk j
    rw [Nat.mul_succ, cipher256After_succ, cipher256After_succ, ← ih, cipher256Round, cipher256Round, if_neg hodd,
      enc256After_succ, enc256Round, hrk, roundKey256_odd, ← roundKey256_even]
    simp only [hlast]

/-- Settles O52: after the seventh iteration the key still to be added is that of round 14. -/
theorem encrypt256IsTheFourteenRoundCipher : Obligations.Encrypt256IsTheFourteenRoundCipher := by
  intro key blk
  obtain ⟨hrk, -⟩ := enc256After_key key blk 7
  rw [enc256_st, hrk, ← roundKey256_even, enc256After_st, cipher256_eq]

end Sys2Proof.Machine
end

section
/-! SUPPORT. `AES128.EXPAND` (spec/47_aes_ctr.md R260, R261), O54: the schedule holds the key blocks end to end. -/

namespace Sys2Proof.Machine

/-- The round keys from `RK_a` on (R227). -/
theorem roundKeys_getD {n j : Nat} (a : Nat) (key d : Block) (hj : j ≤ n) :
    (roundKeys n (keyBlock128 a key) (rconAt a)).getD j d = keyBlock128 (a + j) key := by
  induction j generalizing n a with
  | zero => cases n <;> rfl
  | succ j ih =>
    obtain ⟨n, rfl⟩ := Nat.exists_eq_succ_of_ne_zero (Nat.ne_zero_of_lt hj)
    rw [roundKeys, List.getD_cons_succ, ← Nat.add_assoc, Nat.add_right_comm]
    exact ih (a + 1) (Nat.le_of_succ_le_succ hj)

/-- R260: byte `i` of round key `j` in the schedule. -/
theorem byteAt_expand128 (key : Block) {i j : Nat} (hj : j ≤ 10) (hi : i < 16) :
    byteAt (expand128 key) (16 * j + i) = byteAt (keyBlock128 j key) i := by
  have hlt : 16 * j + i < 176 := by omega
  have hdiv : (16 * j + i) / 16 = j := by omega
  have hmod : (16 * j + i) % 16 = i := by omega
  have hkey : (roundKeys 10 key 0x01).getD j key = keyBlock128 (0 + j) key := roundKeys_getD 0 key key hj
  rw [byteAt, dif_pos hlt, expand128, Vector.getElem_ofFn, hdiv, hmod, hkey, Nat.zero_add]

/-- `AES128.EXPAND` where it is not refused: the schedule is stored, and beside it only the working registers of the
key change. -/
theorem expand128_spec {k p : Addr} {s : State} (hk : k = p ∨ overlaps k 16 p 176 = false)
    (hm : Memory.wf s.buf = true) :
    ∃ t, exec (.aes128Expand k p) s = .next t ∧ Stored s t p (expand128 (readBytes s k 16)) ∧
      { t with buf := s.buf, rk := s.rk, rcon := s.rcon, round := s.round } = respond .done s := by
  refine ⟨_, if_neg ?_, stored_respond _ _ _ rfl hm (by decide), ?_⟩
  · rcases hk with rfl | hov
    · simp
    · simp [hov]
  · unfold respond writeBytes
    cases s.context <;> rfl

/-- Settles O54: every byte of the schedule is one of its round key's. -/
theorem expandStoresTheRoundKeys : Obligations.ExpandStoresTheRoundKeys := by
  intro s k p hm
  refine ⟨fun hk => ?_, fun hne hov => if_pos (by simp [hne, hov])⟩
  obtain ⟨t, hexec, ⟨hbytes, hrest⟩, hframe⟩ := expand128_spec hk hm
  refine ⟨t, hexec, fun j hj i hi => ?_, hrest, hframe⟩
  rw [hbytes _ (by omega), byteAt_expand128 _ hj hi]

end Sys2Proof.Machine
end

section
/-! SUPPORT. Decryption with the derived key undoes encryption (spec/46_aes_block.md R246), O50 and O51: each pass of a
decryption loop undoes the pass of the encryption loop with its count. The known answers of R247, O53. -/

namespace Sys2Proof.Machine

/-- A loop undone pass by pass in the opposite order, where the undoing loop sees the registers through a map `back`. -/
theorem foldl_reverse_undoes {W : Type} {back : W → W} {pass undo : W → Nat → W}
    (h : ∀ w i, undo (back (pass w i)) i = back w) (is : List Nat) (w : W) :
    is.reverse.foldl undo (back (is.foldl pass w)) = back w := by
  induction is generalizing w with
  | nil => rfl
  | cons i is ih =>
    rw [List.foldl_cons, List.reverse_cons, List.foldl_append, ih]
    exact h w i

/-- The columns are mixed and unmixed in the same passes. -/
theorem invMixColumns_mixColumns_unless (last : Prop) [Decidable last] (st : Block) :
    (if last then if last then st else mixColumns st
      else invMixColumns (if last then st else mixColumns st)) = st := by
  split
  · rfl
  · exact invMixColumns_mixColumns st

/-! ### 128-bit key -/

@[simp] theorem ks128Inv_ks128Fwd (k : Block) (c : Byte) : ks128Inv (ks128Fwd k c) c = k := by
  rw [ks128Inv_eq, ks128Fwd_eq, keyStepInv_keyStep (by decide)]

/-- The registers of an encryption as the decryption holds them at the same place: `rcon` is the constant of the last
key step made, not of the next (R220, R241). -/
def Work128.back (w : Work128) : Work128 := { w with rcon := div2 w.rcon }

/-- R241 against R240: one pass undone. -/
theorem dec128Round_enc128Round (w : Work128) (round : Nat) :
    dec128Round (enc128Round w round).back round = w.back := by
  simp only [dec128Round, enc128Round, Work128.back, div2_mul2, ks128Inv_ks128Fwd, invMixColumns_mixColumns_unless,
    invShiftRows_shiftRows, invSubBytes_subBytes, addRoundKey_addRoundKey]

/-- Passes of R240's loop are forward key steps on the key registers. -/
theorem foldl_enc128Round_key (is : List Nat) (w : Work128) :
    steps128 is.length w.rk w.rcon = ((is.foldl enc128Round w).rk, (is.foldl enc128Round w).rcon) := by
  induction is generalizing w with
  | nil => rfl
  | cons i is ih => exact ih (enc128Round w i)

/-- R242: the derived key is the one that encryption ends with. -/
theorem enc128_rk (key blk : Block) : (enc128 key blk).rk = (derive128 key).1 := by
  have hkey : derive128 key = _ := foldl_enc128Round_key (upTo 10) { st := blk, rk := key, rcon := 0x01 }
  rw [hkey]
  rfl

/-- Decryption starts at the registers where the encryption's loop ended, and ends where it started. -/
theorem dec128_enc128 (key blk : Block) :
    dec128 (derive128 key).1 (enc128 key blk).st = Work128.back { st := blk, rk := key, rcon := 0x01 } := by
  have hrcon : 0x36 = div2 (enc128 key blk).rcon := by
    rw [enc128_rcon]
    decide
  rw [dec128, ← enc128_rk key blk, hrcon, enc128, addRoundKey_addRoundKey]
  exact foldl_reverse_undoes dec128Round_enc128Round (upTo 10) _

/-- Settles O50: decryption ends at the registers that encryption started from. -/
theorem roundTrip128 : Obligations.RoundTrip128 := by
  intro key blk
  rw [dec128_enc128]
  exact ⟨rfl, rfl⟩

/-! ### 256-bit key -/

@[simp] theorem ks256Inv_ks256Fwd (k : Key256) (c : Byte) : ks256Inv (ks256Fwd k c) c = k := by
  rw [ks256Inv_eq, ks256Fwd_eq, keyStepInv_keyStep (by decide)]

/-- The same for a 256-bit key (R220, R244). -/
def Work256.back (w : Work256) : Work256 := { w with rcon := div2 w.rcon }

/-- R244 against R243: one pass, which is two rounds, undone. -/
theorem dec256Round_enc256Round (w : Work256) (it : Nat) :
    dec256Round (enc256Round w it).back it = w.back := by
  simp only [dec256Round, enc256Round, Work256.back, div2_mul2, ks256Inv_ks256Fwd, invMixColumns_mixColumns_unless,
    invMixColumns_mixColumns, invShiftRows_shiftRows, invSubBytes_subBytes, addRoundKey_addRoundKey]

/-- R245: the derived key is the one that encryption ends with. -/
theorem enc256_rk (key : Key256) (blk : Block) : (enc256 key blk).rk = (derive256 key).1 := by
  obtain ⟨hrk, -⟩ := enc256After_key key blk 7
  rw [derive256_fst, ← hrk]
  rfl

/-- Decryption starts at the registers where the encryption's loop ended, and ends where it started. -/
theorem dec256_enc256 (key : Key256) (blk : Block) :
    dec256 (derive256 key).1 (enc256 key blk).st = Work256.back { st := blk, rk := key, rcon := 0x01 } := by
  have hrcon : 0x40 = div2 (enc256 key blk).rcon := by
    rw [enc256_rcon]
    decide
  rw [dec256, ← enc256_rk key blk, hrcon, enc256, addRoundKey_addRoundKey]
  exact foldl_reverse_undoes dec256Round_enc256Round (upTo 7) _

/-- Settles O51: as for a 128-bit key. -/
theorem roundTrip256 : Obligations.RoundTrip256 := by
  intro key blk
  rw [dec256_enc256]
  exact ⟨rfl, rfl⟩

/-! ### The known answers -/

/-- Settles O53: the encryptions and the two derived keys (R242, R245) are evaluated; the decryptions are then round
trips. -/
theorem knownAnswers : Obligations.KnownAnswers := by
  have henc128 : (enc128 (blockOf 0x2b7e151628aed2a6abf7158809cf4f3c) (blockOf 0x3243f6a8885a308d313198a2e0370734)).st =
      blockOf 0x3925841d02dc09fbdc118597196a0b32 := by decide +kernel
  have hderive128 : blockOf 0xd014f9a8c9ee2589e13f0cc8b6630ca6 =
      (derive128 (blockOf 0x2b7e151628aed2a6abf7158809cf4f3c)).1 := by decide +kernel
  have henc256 : (enc256 (Vector.ofFn fun i => BitVec.ofNat 8 i.val) (blockOf 0x00112233445566778899aabbccddeeff)).st =
      blockOf 0x8ea2b7ca516745bfeafc49904b496089 := by decide +kernel
  have hderive256 : (Vector.ofFn fun i =>
      (0x24fc79ccbf0979e9371ac23c6d68de36721f7b9cdbed347ca5ba1fd66842d23c : BitVec 256).extractLsb'
        (8 * (31 - i.val)) 8) = (derive256 (Vector.ofFn fun i => BitVec.ofNat 8 i.val)).1 := by decide +kernel
  refine ⟨henc128, ?_, henc256, ?_⟩
  · rw [hderive128, ← henc128, dec128_enc128]
    rfl
  · rw [hderive256, ← henc256, dec256_enc256]
    rfl

end Sys2Proof.Machine
end

section
/-! SUPPORT. Encryption under an expanded schedule (spec/47_aes_ctr.md R262), O55: a round of it adds at its end the key
that the generic loop of R240 adds at the beginning of the next pass. -/

namespace Sys2Proof.Machine

/-- R260: sixteen bytes of the schedule are a round key. -/
theorem slice_expand128 (key : Block) {j : Nat} (hj : j ≤ 10) :
    slice (expand128 key) (16 * j) 16 = keyBlock128 j key :=
  ext_byteAt fun i hi => by rw [byteAt, dif_pos hi, slice, Vector.getElem_ofFn, byteAt_expand128 key hj hi]

/-- The registers after the first `j` passes of R240's loop. -/
def enc128After (key blk : Block) (j : Nat) : Work128 :=
  (upTo j).foldl enc128Round { st := blk, rk := key, rcon := 0x01 }

theorem enc128After_succ (key blk : Block) (j : Nat) :
    enc128After key blk (j + 1) = enc128Round (enc128After key blk j) (j + 1) := by
  rw [enc128After, upTo_succ, List.foldl_append]
  rfl

theorem enc128_st (key blk : Block) :
    (enc128 key blk).st = addRoundKey (enc128After key blk 10).st (enc128After key blk 10).rk := rfl

/-- The working key follows the schedule (R227). -/
theorem enc128After_rk (key blk : Block) (j : Nat) : (enc128After key blk j).rk = keyBlock128 j key := by
  have hkey := foldl_enc128Round_key (upTo j) { st := blk, rk := key, rcon := 0x01 }
  have hsteps : steps128 j key 0x01 = (keyBlock128 (0 + j) key, rconAt (0 + j)) := steps128_keyBlock128 j 0 key
  rw [upTo, List.length_range', hsteps, Nat.zero_add] at hkey
  exact (congrArg Prod.fst hkey).symm

/-- The state of R262's loop after its first `j` rounds. -/
def encSchedAfter (sched : Schedule) (blk : Block) (j : Nat) : Block :=
  (upTo j).foldl (schedRound sched) (addRoundKey blk (slice sched 0 16))

theorem encSchedAfter_succ (sched : Schedule) (blk : Block) (j : Nat) :
    encSchedAfter sched blk (j + 1) = schedRound sched (encSchedAfter sched blk j) (j + 1) := by
  rw [encSchedAfter, upTo_succ, List.foldl_append]
  rfl

theorem encSched_eq (sched : Schedule) (blk : Block) : encSched sched blk = encSchedAfter sched blk 10 := rfl

/-- With the key of the next pass added, the generic state is the state under the schedule. -/
theorem encSchedAfter_expand128 (key blk : Block) {j : Nat} (hj : j ≤ 10) :
    encSchedAfter (expand128 key) blk j = addRoundKey (enc128After key blk j).st (keyBlock128 j key) := by
  induction j with
  | zero =>
    have hkey : slice (expand128 key) 0 16 = key := slice_expand128 key (j := 0) hj
    exact congrArg (addRoundKey blk) hkey
  | succ j ih =>
    rw [encSchedAfter_succ, ih (Nat.le_of_succ_le hj), schedRound, slice_expand128 key hj, enc128After_succ,
      enc128Round, enc128After_rk]

/-- Settles O55: after the tenth pass the key still to be added is that of round 10. -/
theorem scheduleEncryptsLikeTheKey : Obligations.ScheduleEncryptsLikeTheKey := by
  intro key blk
  rw [encSched_eq, encSchedAfter_expand128 key blk le_rfl, enc128_st, enc128After_rk]

end Sys2Proof.Machine
end

section
/-! SUPPORT. The counter of `AES128.CTR` as a big-endian integer (spec/47_aes_ctr.md R264, spec/20_memory.md R75), O56:
the carry reaches the bytes before the last by recursion, so the increment is stated of the first bytes alone. -/

namespace Sys2Proof.Machine

/-- R75: the big-endian integer in the first `i` bytes of a counter. -/
def leadingValue (ctr : Block) : Nat → Nat
  | 0 => 0
  | i + 1 => leadingValue ctr i * 256 + (byteAt ctr i).toNat

theorem leadingValue_lt (ctr : Block) (i : Nat) : leadingValue ctr i < 256 ^ i := by
  induction i with
  | zero => exact Nat.one_pos
  | succ i ih =>
    have hbyte := (byteAt ctr i).isLt
    rw [leadingValue, Nat.pow_succ]
    omega

theorem leadingValue_congr {c d : Block} {i : Nat} (h : ∀ j, j < i → byteAt c j = byteAt d j) :
    leadingValue c i = leadingValue d i := by
  induction i with
  | zero => rfl
  | succ i ih => rw [leadingValue, leadingValue, h i i.lt_succ_self, ih fun j hj => h j (Nat.lt_succ_of_lt hj)]

theorem leadingValue_eq_foldl (ctr : Block) {i : Nat} (hi : i ≤ 16) :
    leadingValue ctr i = (ctr.toList.take i).foldl (fun acc b => acc * 256 + b.toNat) 0 := by
  induction i with
  | zero => rfl
  | succ i ih =>
    have hlt : i < 16 := hi
    have hlen : i < ctr.toList.length := by rwa [Vector.length_toList]
    rw [List.take_succ_eq_append_getElem hlen, List.foldl_append, ← ih hlt.le, leadingValue, byteAt, dif_pos hlt]
    rfl

theorem ctrValue_eq_leadingValue (ctr : Block) : ctrValue ctr = leadingValue ctr 16 := by
  rw [leadingValue_eq_foldl ctr le_rfl, List.take_of_length_le (by simp), ctrValue]

/-- The sixteen bytes count modulo 2^128. -/
theorem ctrRange : 256 ^ 16 = 2 ^ 128 := by norm_num

theorem ctrValue_lt (ctr : Block) : ctrValue ctr < 2 ^ 128 := by
  rw [ctrValue_eq_leadingValue, ← ctrRange]
  exact leadingValue_lt ctr 16

/-- The carry goes toward byte 0 only. -/
theorem byteAt_ctrIncFrom {i j : Nat} (ctr : Block) (hij : i ≤ j) (hj : j < 16) :
    byteAt (ctrIncFrom i ctr) j = byteAt ctr j := by
  induction i generalizing ctr with
  | zero => rfl
  | succ i ih =>
    have hset : byteAt (setByte ctr i (byteAt ctr i + 1)) j = byteAt ctr j := by
      rw [byteAt_setByte _ _ hj, if_neg (by omega)]
    rw [ctrIncFrom]
    split
    · exact hset
    · rw [ih _ (by omega), hset]

/-- R264: the increment from byte `i - 1` adds one to the integer in the first `i` bytes, modulo its range. -/
theorem leadingValue_ctrIncFrom (ctr : Block) {i : Nat} (hi : i ≤ 16) :
    leadingValue (ctrIncFrom i ctr) i = (leadingValue ctr i + 1) % 256 ^ i := by
  induction i generalizing ctr with
  | zero => exact (Nat.mod_one 1).symm
  | succ i ih =>
    have hsame : byteAt (setByte ctr i (byteAt ctr i + 1)) i = byteAt ctr i + 1 := by
      rw [byteAt_setByte _ _ hi, if_pos rfl]
    have hrest : leadingValue (setByte ctr i (byteAt ctr i + 1)) i = leadingValue ctr i :=
      leadingValue_congr fun j hj => by rw [byteAt_setByte _ _ (by omega), if_neg (by omega)]
    have hlt := leadingValue_lt ctr i
    rw [ctrIncFrom, hsame]
    split
    case isTrue hne =>
      have hsucc : (byteAt ctr i + 1).toNat = (byteAt ctr i).toNat + 1 := by bv_omega
      have hbyte := (byteAt ctr i + 1).isLt
      have hfits : leadingValue ctr i * 256 + (byteAt ctr i).toNat + 1 < 256 ^ (i + 1) := by
        rw [Nat.pow_succ]
        omega
      rw [leadingValue, leadingValue, hrest, hsame, hsucc, Nat.mod_eq_of_lt hfits, Nat.add_assoc]
    case isFalse hwrap =>
      have hzero : byteAt ctr i + 1 = 0 := not_not.1 hwrap
      have hfull : (byteAt ctr i).toNat = 255 := by bv_omega
      have hcarry : leadingValue ctr i * 256 + 255 + 1 = (leadingValue ctr i + 1) * 256 := by omega
      rw [leadingValue, byteAt_ctrIncFrom _ le_rfl hi, hsame, ih _ (Nat.le_of_succ_le hi), hrest, hzero, leadingValue,
        hfull, hcarry, Nat.pow_succ, Nat.mul_mod_mul_right]
      exact Nat.add_zero _

theorem ctrValue_ctrInc (ctr : Block) : ctrValue (ctrInc ctr) = (ctrValue ctr + 1) % 2 ^ 128 := by
  rw [ctrValue_eq_leadingValue, ctrValue_eq_leadingValue, ctrInc, leadingValue_ctrIncFrom ctr le_rfl, ctrRange]

/-- Settles O56: the increment of all sixteen bytes, and its four printed values. -/
theorem counterIncrement : Obligations.CounterIncrement :=
  ⟨ctrValue_ctrInc, by decide +kernel, by decide +kernel, by decide +kernel, by decide +kernel⟩

end Sys2Proof.Machine
end

section
/-! SUPPORT. `AES128.CTR` on a schedule made from a key (spec/47_aes_ctr.md R266), O59, and in two calls (R265), O58. -/

namespace Sys2Proof.Machine

/-! ### The generic path -/

/-- R266: the counter of block `k`. -/
theorem ctrValue_counterAfter (k : Nat) (c : Block) : ctrValue (counterAfter k c) = (ctrValue c + k) % 2 ^ 128 := by
  induction k generalizing c with
  | zero => exact (Nat.mod_eq_of_lt (ctrValue_lt c)).symm
  | succ k ih => rw [counterAfter, ih, ctrValue_ctrInc, Nat.mod_add_mod, Nat.add_assoc, Nat.add_comm 1 k]

theorem addRoundKey_comm (a b : Block) : addRoundKey a b = addRoundKey b a :=
  ext_byteAt fun i hi => by rw [byteAt_addRoundKey _ _ hi, byteAt_addRoundKey _ _ hi, BitVec.xor_comm]

/-- `MemRead` of an operand gives what its bytes read as. -/
theorem readBytes_eq {s : State} {p : Addr} {n : Nat} {v : Bytes n}
    (h : ∀ i, i < n → readByte s (addrAdd p i) = byteAt v i) : readBytes s p n = v :=
  ext_byteAt fun i hi => by rw [byteAt_readBytes _ _ hi, h i hi]

/-- Settles O59: under the schedule of a key the keystream is the generic encryption of the counters. -/
theorem counterModeEqualsTheGenericPath : Obligations.CounterModeEqualsTheGenericPath := by
  refine ⟨fun s sp cp n dp key hm hov hkey => ?_, ctrValue_counterAfter⟩
  obtain ⟨t, hexec, hdata, hctr, -⟩ := (counterModeRule s sp cp n dp hm).1 hov
  refine ⟨t, hexec, fun i hi => ?_, ?_⟩
  · rw [addRoundKey_comm]
    refine readBytes_eq fun j hj => ?_
    rw [addrAdd_addrAdd, hdata i hi j hj, hkey, scheduleEncryptsLikeTheKey, byteAt_addRoundKey _ _ hj,
      byteAt_readBytes _ _ hj, addrAdd_addrAdd]
  · rw [readBytes_eq hctr, ctrValue_counterAfter]

/-! ### Memories that read alike -/

/-- A canonical memory lists nothing outside `BUF`. -/
theorem Memory.read_of_le {m : Memory} {lo : Option Nat} (h : Memory.wfFrom lo m = true) {a : Nat}
    (ha : 2 ^ 16 ≤ a) : Memory.read m a = Memory.unlisted := by
  induction m generalizing lo with
  | nil => rfl
  | cons c m ih =>
    obtain ⟨k, v⟩ := c
    obtain ⟨-, hk, -, hrest⟩ := Memory.wfFrom_cons.1 h
    rw [Memory.read, if_neg (by omega), ih hrest]

/-- Canonical memories that read alike at every address of `BUF` are equal. -/
theorem buf_eq_of_sameMemory {s t : State} (hs : Memory.wf s.buf = true) (ht : Memory.wf t.buf = true)
    (h : SameMemory s t) : t.buf = s.buf := by
  refine Memory.ext_of_read ht hs fun a => ?_
  by_cases ha : a < 2 ^ 16
  · have hread := h (BitVec.ofNat 16 a)
    have hnat : (BitVec.ofNat 16 a).toNat = a := Nat.mod_eq_of_lt ha
    unfold readByte at hread
    rwa [hnat] at hread
  · rw [Memory.read_of_le ht (Nat.le_of_not_lt ha), Memory.read_of_le hs (Nat.le_of_not_lt ha)]

/-! ### Two calls -/

/-- The counters after a first call's are the counters further on (R265). -/
theorem counterAfter_counterAfter (a b : Nat) (c : Block) :
    counterAfter b (counterAfter a c) = counterAfter (a + b) c := by
  induction a generalizing c with
  | zero => rw [Nat.zero_add]; rfl
  | succ a ih => rw [Nat.succ_add]; exact ih (ctrInc c)

/-- A part of an operand lies apart from what the operand lies apart from (R88). -/
theorem overlaps_part {a b : Addr} {n m i k : Nat} (h : overlaps a n b m = false) (hik : i + k ≤ m) :
    overlaps a n (addrAdd b i) k = false := by
  refine Bool.eq_false_iff.2 fun hpart => Bool.eq_false_iff.1 h ?_
  obtain ⟨x, hx, y, hy, hxy⟩ := (overlapIsASharedAddress _ _ _ _).1 hpart
  refine (overlapIsASharedAddress _ _ _ _).2 ⟨x, hx, i + y, by omega, ?_⟩
  rw [hxy, ← addrAdd_eq_ofNat, ← addrAdd_eq_ofNat, addrAdd_addrAdd]

/-- Blocks in the middle of operands that do not overlap. -/
theorem ctrOverlap_part {sp cp dp : Addr} {n k : Count} {i : Nat} (h : ctrOverlap sp cp n dp = false)
    (hik : i + k.toNat ≤ n.toNat) : ctrOverlap sp cp k (addrAdd dp (16 * i)) = false := by
  simp only [ctrOverlap, Bool.or_eq_false_iff] at h ⊢
  obtain ⟨⟨hsc, hsd⟩, hcd⟩ := h
  exact ⟨⟨hsc, overlaps_part hsd (by omega)⟩, overlaps_part hcd (by omega)⟩

/-- Byte `e` of the keystream, whose block `i` is the encryption of the counter plus `i` (R263). -/
def keystream (sched : Schedule) (c : Block) (e : Nat) : Byte :=
  byteAt (encSched sched (counterAfter (e / 16) c)) (e % 16)

/-- The keystream from a counter further on is the keystream further on. -/
theorem keystream_counterAfter (sched : Schedule) (a : Nat) (c : Block) (e : Nat) :
    keystream sched (counterAfter a c) e = keystream sched c (16 * a + e) := by
  rw [keystream, keystream, counterAfter_counterAfter, Nat.mul_add_div (by decide), Nat.mul_add_mod]

/-- A byte of an operand, found by its address. -/
theorem readByte_eq_byteAt {s : State} {p x : Addr} {n : Nat} (hx : (x - p).toNat < n) :
    readByte s x = byteAt (readBytes s p n) (x - p).toNat := by
  rw [byteAt_readBytes _ _ hx, addrAdd_of_sub]

/-- `AES128.CTR` where it is not refused: what its three operands hold afterwards, and every other byte (R263). -/
theorem aes128Ctr_spec {sp cp : Addr} {n : Count} {dp : Addr} {s : State} (hm : Memory.wf s.buf = true)
    (hov : ctrOverlap sp cp n dp = false) :
    ∃ t, exec (.aes128Ctr sp cp n dp) s = .next t ∧ readBytes t sp 176 = readBytes s sp 176 ∧
      readBytes t cp 16 = counterAfter n.toNat (readBytes s cp 16) ∧
      ∀ x : Addr, 16 ≤ (x - cp).toNat → readByte t x =
        if (x - dp).toNat < 16 * n.toNat then
          readByte s x ^^^ keystream (readBytes s sp 176) (readBytes s cp 16) (x - dp).toNat
        else readByte s x := by
  obtain ⟨hfit, -⟩ := ctr_operands_apart hov
  obtain ⟨hctr, hrest⟩ := stored_aes128Ctr (sp := sp) (cp := cp) (n := n) (dp := dp) hm
  have hbyte := fun (x : Addr) (hx : 16 ≤ (x - cp).toNat) => (hrest x hx).trans (readByte_ctrRun hm hfit x)
  refine ⟨_, aes128Ctr_eq hov, readBytes_eq fun i hi => ?_, readBytes_eq hctr, hbyte⟩
  simp only [ctrOverlap, Bool.or_eq_false_iff] at hov
  obtain ⟨⟨hsc, hsd⟩, -⟩ := hov
  have hin : (addrAdd sp i - sp).toNat < 176 := by
    rw [addrAdd_sub_toNat]
    omega
  have hcounter : 16 ≤ (addrAdd sp i - cp).toNat :=
    Nat.le_of_not_lt fun h => Nat.not_lt.2 (le_sub_of_overlaps_eq_false hsc h) hin
  have hdata : ¬ (addrAdd sp i - dp).toNat < 16 * n.toNat := fun h =>
    Nat.not_lt.2 (le_sub_of_overlaps_eq_false hsd h) hin
  rw [hbyte _ hcounter, if_neg hdata, byteAt_readBytes _ _ hi]

/-- Settles O58: the second call goes on with the counter and so with the keystream where the first one stopped. -/
theorem counterModeStreams : Obligations.CounterModeStreams := by
  intro s sp cp dp a b hm hab hov
  have hn : (BitVec.ofNat 16 (a + b)).toNat = a + b := Nat.mod_eq_of_lt hab
  have ha : (BitVec.ofNat 16 a).toNat = a := Nat.mod_eq_of_lt (by omega)
  have hb : (BitVec.ofNat 16 b).toNat = b := Nat.mod_eq_of_lt (by omega)
  obtain ⟨hfit, -⟩ := ctr_operands_apart hov
  have hova : ctrOverlap sp cp (BitVec.ofNat 16 a) dp = false := by
    rw [← addrAdd_zero dp]
    exact ctrOverlap_part (i := 0) hov (by omega)
  have hovb : ctrOverlap sp cp (BitVec.ofNat 16 b) (addrAdd dp (16 * a)) = false := ctrOverlap_part hov (by omega)
  obtain ⟨t, ht, -, htctr, htbyte⟩ := aes128Ctr_spec hm hov
  obtain ⟨u, hu, husched, huctr, hubyte⟩ := aes128Ctr_spec hm hova
  have hmu := exec_keeps_wf hu hm
  obtain ⟨v, hv, -, hvctr, hvbyte⟩ := aes128Ctr_spec hmu hovb
  rw [hn] at hfit htctr htbyte
  rw [ha] at huctr hubyte
  rw [hb, huctr, counterAfter_counterAfter] at hvctr
  rw [hb, husched, huctr] at hvbyte
  refine ⟨t, u, v, ht, hu, hv, buf_eq_of_sameMemory (exec_keeps_wf ht hm) (exec_keeps_wf hv hmu) fun x => ?_⟩
  rcases Nat.lt_or_ge (x - cp).toNat 16 with hx | hx
  · rw [readByte_eq_byteAt hx, readByte_eq_byteAt hx, hvctr, htctr]
  have hlt : (x - dp).toNat < 2 ^ 16 := (x - dp).isLt
  rw [hvbyte x hx, hubyte x hx, htbyte x hx, keystream_counterAfter, sub_addrAdd_toNat x dp (by omega)]
  by_cases hfirst : (x - dp).toNat < 16 * a
  · rw [if_neg (by omega), if_pos hfirst, if_pos (by omega)]
  · have hdist : 16 * a + (2 ^ 16 - 16 * a + (x - dp).toNat) % 2 ^ 16 = (x - dp).toNat := by omega
    rw [if_neg hfirst, hdist]
    exact if_congr (by omega) rfl rfl

end Sys2Proof.Machine
end

section
/-! SUPPORT. The moves of PERIPH as steps (spec/60_exceptions.md R291, R293, R296), O9, and a reset at any moment
(spec/70_reset_and_hazards.md R310, R311), O11. -/

namespace Sys2Proof.Machine

section
variable {s : State} {status data : Byte}

/-- In flight with no event pending, PERIPH raises one (R291). -/
theorem periphRaise_of_quiet (hf : inFlight s = true) (hint : ctrlIntSet s.twCtrl = false) :
    periphRaise status data s =
      .next { s with twStatus := status, twData := data, twCtrl := setBit s.twCtrl Config.ctrlInt } := by
  simp [periphRaise, hf, hint]

/-- In flight, no event is raised over a pending one (R291, R296). -/
theorem periphRaise_of_pending (hf : inFlight s = true) (hint : ctrlIntSet s.twCtrl = true) :
    periphRaise status data s = .fault .eventStillPending := by
  simp [periphRaise, hf, hint]

/-- Outside a transaction no event is raised (R296; log entry 18). -/
theorem periphRaise_of_not_inFlight (hf : inFlight s = false) :
    periphRaise status data s = .refused .eventOutsideTransaction := by
  simp [periphRaise, hf]

end

/-- Setting a bit of `TW_CTRL` changes that bit only. -/
theorem getLsbD_setBit_other {c : Byte} {pos i : Nat} (h : pos ≠ i) : (setBit c pos).getLsbD i = c.getLsbD i := by
  simp [setBit, getLsbD_bitAt, h]

/-- Clearing a bit of `TW_CTRL` changes that bit only. -/
theorem getLsbD_clearBit_other {c : Byte} {pos i : Nat} (h : pos ≠ i) :
    (clearBit c pos).getLsbD i = c.getLsbD i := by
  simp [getLsbD_clearBit, h]

/-- A reset that comes next is taken whatever else is pending (R311). -/
theorem step_powerCycle {s : State} {moves : List Move} (hs : s.script = .powerCycle :: moves) :
    step s = .next { State.reset with script := moves } := by
  simp [step, powerFails, restart, hs]

/-- Settles O9: with no interrupt to take the step is PERIPH's move, which sets `INT` (bit 7) or clears `STO` (bit 4)
and leaves the other bits of `TW_CTRL` as they read. -/
theorem peripheralMoves : Obligations.PeripheralMoves := by
  intro s moves hr
  refine ⟨fun status data hs => ?_, fun hs => ?stop⟩
  case stop =>
    obtain ⟨hsto, -⟩ := kept_clearSto s.twCtrl
    exact ⟨_, step_stopComplete hr hs, rfl, hsto, fun i _ hne => getLsbD_clearBit_other hne.symm⟩
  rw [step_raise hr hs]
  refine ⟨fun hp hres hint => ?raised, fun hp hres hint => ?pending, fun hout => ?outside⟩
  case raised =>
    obtain ⟨hset, -⟩ := kept_setInt s.twCtrl
    exact ⟨_, periphRaise_of_quiet ((inFlight_iff s).2 ⟨hp, hres⟩) hint, rfl, hset,
      fun i hi => getLsbD_setBit_other hi.ne'⟩
  case pending => exact periphRaise_of_pending ((inFlight_iff s).2 ⟨hp, hres⟩) hint
  case outside =>
    exact periphRaise_of_not_inFlight (Bool.eq_false_iff.2 fun hf => hout ((inFlight_iff s).1 hf))

/-- Settles O11: the reset is taken before the handler and before any other move. -/
theorem resetAtAnyMoment : Obligations.ResetAtAnyMoment :=
  fun _ _ hs => step_powerCycle hs

end Sys2Proof.Machine
end
